-- ==== Sys2Proof/Word.lean ====
section
/-! DEFINITION. The word types of the block: bytes, operation words and registers. -/

namespace Sys2Proof

/-- A byte of a buffer (20_memory.md R70). -/
abbrev Byte := BitVec 8

/-- An operation word (30_encoding.md R100). -/
abbrev Word := BitVec 32

/-- A register as the host reads and writes it (10_state.md R21). -/
abbrev RegWord := BitVec 64

end Sys2Proof
end

