-- ==== Sys2Proof/Syntax.lean ====
section
/-! DEFINITION. The operations of the block (30_encoding.md R103): one constructor per row of the
opcode map, with the operands its format has (R101, R102). -/

namespace Sys2Proof

/-- The arena select bit `a` (30_encoding.md R100): by convention arena 0 is the outbound and arena 1
the inbound command buffer (10_state.md R45). -/
inductive Arena where
  | a0
  | a1
deriving DecidableEq, Repr

/-- The 18 command kinds in the order of their numbers (30_encoding.md R112). -/
inductive Kind where
  | ssrm | ssid | esid | sfid | sfpa | sfna | data | cdt | efid
  | efpa | efna | cd | eerp | nerp | rtr | secd | auch | aurp
deriving DecidableEq, Repr

/-- The 21 operations. `off` and `w` are the unsigned fields of the word (R102); the kind operand of
`CHECK` is `none` for `ANY` (R112). -/
inductive Instr where
  /-- `NOP` (45_system.md R261) -/
  | nop
  /-- `SRESET` (45_system.md R262) -/
  | sreset
  /-- `NEW a, k` (40_frame.md R141) -/
  | new (a : Arena) (k : Kind)
  /-- `CHECK a, e` (40_frame.md R145) -/
  | check (a : Arena) (e : Option Kind)
  /-- `PUTA a, off, w` (41_fixed_fields.md R163) -/
  | puta (a : Arena) (off : BitVec 17) (w : BitVec 8)
  /-- `GETA a, off, w` (41_fixed_fields.md R164) -/
  | geta (a : Arena) (off : BitVec 17) (w : BitVec 8)
  /-- `PUTN a, off, w` (41_fixed_fields.md R166) -/
  | putn (a : Arena) (off : BitVec 17) (w : BitVec 8)
  /-- `GETN a, off, w` (41_fixed_fields.md R167) -/
  | getn (a : Arena) (off : BitVec 17) (w : BitVec 8)
  /-- `PUTU a, off, w` (41_fixed_fields.md R169) -/
  | putu (a : Arena) (off : BitVec 17) (w : BitVec 8)
  /-- `GETU a, off, w` (41_fixed_fields.md R170) -/
  | getu (a : Arena) (off : BitVec 17) (w : BitVec 8)
  /-- `PUTT a, off` (42_variable_fields.md R192) -/
  | putt (a : Arena) (off : BitVec 17)
  /-- `GETT a, off` (42_variable_fields.md R193) -/
  | gett (a : Arena) (off : BitVec 17)
  /-- `PUTB a, off` (42_variable_fields.md R194) -/
  | putb (a : Arena) (off : BitVec 17)
  /-- `GETB a, off` (42_variable_fields.md R195) -/
  | getb (a : Arena) (off : BitVec 17)
  /-- `RLENC a` (43_rlc.md R213) -/
  | rlenc (a : Arena)
  /-- `RLDEC a` (43_rlc.md R219) -/
  | rldec (a : Arena)
  /-- `RLEOS` (43_rlc.md R224) -/
  | rleos
  /-- `RLINIT` (43_rlc.md R211) -/
  | rlinit
  /-- `CRINIT` (44_credit.md R241) -/
  | crinit
  /-- `CRTAKE` (44_credit.md R242) -/
  | crtake
  /-- `CRGRANT` (44_credit.md R243) -/
  | crgrant
deriving DecidableEq, Repr

end Sys2Proof
end

