-- ==== Sys2Proof/WellFormed.lean ====
section
/-! DEFINITION. Which terms of `Instr` are legal operations: the operand ranges of 30_encoding.md R103
and R108 that the types of the operands do not already keep. -/

namespace Sys2Proof

/-- The field width lies in `1 .. hi` (30_encoding.md R103). -/
def widthIn (hi : Nat) (w : BitVec 8) : Bool :=
  decide (1 ≤ w.toNat) && decide (w.toNat ≤ hi)

/-- The operand constraints of 30_encoding.md R103, last column but one. -/
def Instr.wellFormed : Instr → Bool
  | .puta _ _ w => widthIn 255 w
  | .geta _ _ w => widthIn 255 w
  | .putn _ _ w => widthIn 19 w
  | .getn _ _ w => widthIn 19 w
  | .putu _ _ w => widthIn 4 w
  | .getu _ _ w => widthIn 4 w
  | .nop => true
  | .sreset => true
  | .new _ _ => true
  | .check _ _ => true
  | .putt _ _ => true
  | .gett _ _ => true
  | .putb _ _ => true
  | .getb _ _ => true
  | .rlenc _ => true
  | .rldec _ => true
  | .rleos => true
  | .rlinit => true
  | .crinit => true
  | .crtake => true
  | .crgrant => true

end Sys2Proof
end

