-- ==== Sys2Proof/Decode.lean ====
section
/-! DEFINITION. The operation word (30_encoding.md part A): its fields, the opcode map, the decoder of
the 64-bit value written to `OP`, and the encoder. Every one of the 2^64 values decodes to a legal
operation or is rejected under the name of the case of R108 it falls in. -/

namespace Sys2Proof

/-! ## Numbers of arenas and kinds -/

/-- The arena select bit (30_encoding.md R100). -/
def Arena.bit : Arena → BitVec 1
  | .a0 => 0
  | .a1 => 1

/-- The arena a select bit names. -/
def Arena.ofBit (b : BitVec 1) : Arena := if b = 1 then .a1 else .a0

/-- The kinds in the order of their numbers (30_encoding.md R112). -/
def Kind.all : List Kind :=
  [.ssrm, .ssid, .esid, .sfid, .sfpa, .sfna, .data, .cdt, .efid,
   .efpa, .efna, .cd, .eerp, .nerp, .rtr, .secd, .auch, .aurp]

/-- The kind number (30_encoding.md R112). -/
def Kind.number : Kind → Nat
  | .ssrm => 0 | .ssid => 1 | .esid => 2 | .sfid => 3 | .sfpa => 4 | .sfna => 5
  | .data => 6 | .cdt => 7 | .efid => 8 | .efpa => 9 | .efna => 10 | .cd => 11
  | .eerp => 12 | .nerp => 13 | .rtr => 14 | .secd => 15 | .auch => 16 | .aurp => 17

/-- The kind a number names; numbers 18 to 31 name none. -/
def Kind.ofNumber (n : Nat) : Option Kind := Kind.all[n]?

/-- `NONE` as a value of `KIND[a]`, `ANY` as the operand of `CHECK` (30_encoding.md R112). -/
def noKind : Nat := 31

/-- The number of a kind, or 31 for none (30_encoding.md R112). -/
def Kind.numberOrNone : Option Kind → Nat
  | some k => k.number
  | none => noKind

/-! ## The opcode map -/

/-- The five formats (30_encoding.md R101). -/
inductive Format where
  /-- fixed field -/
  | F
  /-- variable field -/
  | V
  /-- kind -/
  | K
  /-- arena -/
  | A
  /-- no operand -/
  | Z
deriving DecidableEq, Repr

/-- The rows of the opcode map (30_encoding.md R103). -/
inductive Opcode where
  | nop | sreset | new | check | puta | geta | putn | getn | putu | getu
  | putt | gett | putb | getb | rlenc | rldec | rleos | rlinit | crinit | crtake | crgrant
deriving DecidableEq, Repr

/-- The rows in the order of the map. -/
def Opcode.all : List Opcode :=
  [.nop, .sreset, .new, .check, .puta, .geta, .putn, .getn, .putu, .getu,
   .putt, .gett, .putb, .getb, .rlenc, .rldec, .rleos, .rlinit, .crinit, .crtake, .crgrant]

/-- The column `opc` of 30_encoding.md R103. -/
def Opcode.code : Opcode → BitVec 6
  | .nop => 0x00 | .sreset => 0x01
  | .new => 0x08 | .check => 0x09
  | .puta => 0x10 | .geta => 0x11 | .putn => 0x12 | .getn => 0x13 | .putu => 0x14 | .getu => 0x15
  | .putt => 0x16 | .gett => 0x17 | .putb => 0x18 | .getb => 0x19
  | .rlenc => 0x20 | .rldec => 0x21 | .rleos => 0x22 | .rlinit => 0x23
  | .crinit => 0x28 | .crtake => 0x29 | .crgrant => 0x2A

/-- The column `format` of 30_encoding.md R103. -/
def Opcode.format : Opcode → Format
  | .nop => .Z | .sreset => .Z
  | .new => .K | .check => .K
  | .puta => .F | .geta => .F | .putn => .F | .getn => .F | .putu => .F | .getu => .F
  | .putt => .V | .gett => .V | .putb => .V | .getb => .V
  | .rlenc => .A | .rldec => .A
  | .rleos => .Z | .rlinit => .Z | .crinit => .Z | .crtake => .Z | .crgrant => .Z

/-- The column `mask` of 30_encoding.md R103. -/
def Opcode.mask : Opcode → Word
  | .nop => 0xFFFFFFFF | .sreset => 0xFFFFFFFF
  | .new => 0xFDFFFFE0 | .check => 0xFDFFFFE0
  | .puta => 0xFC000000 | .geta => 0xFC000000 | .putn => 0xFC000000 | .getn => 0xFC000000
  | .putu => 0xFC000000 | .getu => 0xFC000000
  | .putt => 0xFC0000FF | .gett => 0xFC0000FF | .putb => 0xFC0000FF | .getb => 0xFC0000FF
  | .rlenc => 0xFDFFFFFF | .rldec => 0xFDFFFFFF
  | .rleos => 0xFFFFFFFF | .rlinit => 0xFFFFFFFF
  | .crinit => 0xFFFFFFFF | .crtake => 0xFFFFFFFF | .crgrant => 0xFFFFFFFF

/-- The column `match` of 30_encoding.md R103. -/
def Opcode.pattern : Opcode → Word
  | .nop => 0x00000000 | .sreset => 0x04000000
  | .new => 0x20000000 | .check => 0x24000000
  | .puta => 0x40000000 | .geta => 0x44000000 | .putn => 0x48000000 | .getn => 0x4C000000
  | .putu => 0x50000000 | .getu => 0x54000000
  | .putt => 0x58000000 | .gett => 0x5C000000 | .putb => 0x60000000 | .getb => 0x64000000
  | .rlenc => 0x80000000 | .rldec => 0x84000000
  | .rleos => 0x88000000 | .rlinit => 0x8C000000
  | .crinit => 0xA0000000 | .crtake => 0xA4000000 | .crgrant => 0xA8000000

/-- The row a code selects; the codes 30_encoding.md R108 calls reserved select none. -/
def Opcode.ofCode (c : BitVec 6) : Option Opcode := Opcode.all.find? (fun o => o.code == c)

/-! ## The fields of the word (30_encoding.md R100) -/

/-- Bits 31:26. -/
def opcField (x : Word) : BitVec 6 := x.extractLsb' 26 6

/-- Bit 25. -/
def aField (x : Word) : BitVec 1 := x.extractLsb' 25 1

/-- Bits 24:8. -/
def offField (x : Word) : BitVec 17 := x.extractLsb' 8 17

/-- Bits 7:0. -/
def wField (x : Word) : BitVec 8 := x.extractLsb' 0 8

/-- Bits 4:0, the kind operand of the K format (30_encoding.md R102). -/
def kindField (x : Word) : BitVec 5 := x.extractLsb' 0 5

/-- The fields a format requires to be zero are zero (30_encoding.md R101). -/
def Format.fits (f : Format) (x : Word) : Bool :=
  match f with
  | .F => true
  | .V => wField x == 0
  | .K => offField x == 0 && x.extractLsb' 5 3 == 0
  | .A => offField x == 0 && wField x == 0
  | .Z => aField x == 0 && offField x == 0 && wField x == 0

/-! ## The decoder -/

/-- Why a value written to `OP` is no operation: the four cases of 30_encoding.md R108, in its order. -/
inductive DecodeError where
  /-- bits 63:32 of the written value are not zero -/
  | upperBits
  /-- `opc` is a reserved code -/
  | reservedOpcode
  /-- a field the format requires to be zero is not zero -/
  | mustBeZero
  /-- an operand is outside its range -/
  | operandRange
deriving DecidableEq, Repr

/-- Rejects an operation whose width operand is out of range (30_encoding.md R108 case 4). -/
def inRange (i : Instr) : Except DecodeError Instr :=
  if i.wellFormed then .ok i else .error .operandRange

/-- The operation of a row with the operands of a word whose must-be-zero fields are zero
(30_encoding.md R102, R103). -/
def Opcode.operands (o : Opcode) (x : Word) : Except DecodeError Instr :=
  let a := Arena.ofBit (aField x)
  let off := offField x
  let w := wField x
  match o with
  | .nop => .ok .nop
  | .sreset => .ok .sreset
  | .new =>
    match Kind.ofNumber (kindField x).toNat with
    | some k => .ok (.new a k)
    | none => .error .operandRange
  | .check =>
    if (kindField x).toNat = noKind then .ok (.check a none)
    else
      match Kind.ofNumber (kindField x).toNat with
      | some k => .ok (.check a (some k))
      | none => .error .operandRange
  | .puta => inRange (.puta a off w)
  | .geta => inRange (.geta a off w)
  | .putn => inRange (.putn a off w)
  | .getn => inRange (.getn a off w)
  | .putu => inRange (.putu a off w)
  | .getu => inRange (.getu a off w)
  | .putt => .ok (.putt a off)
  | .gett => .ok (.gett a off)
  | .putb => .ok (.putb a off)
  | .getb => .ok (.getb a off)
  | .rlenc => .ok (.rlenc a)
  | .rldec => .ok (.rldec a)
  | .rleos => .ok .rleos
  | .rlinit => .ok .rlinit
  | .crinit => .ok .crinit
  | .crtake => .ok .crtake
  | .crgrant => .ok .crgrant

/-- The operation a 32-bit word spells (30_encoding.md R103, R108 cases 2 to 4). -/
def decodeWord (x : Word) : Except DecodeError Instr :=
  match Opcode.ofCode (opcField x) with
  | none => .error .reservedOpcode
  | some o => if o.format.fits x then o.operands x else .error .mustBeZero

/-- The operation a 64-bit value written to `OP` spells (10_state.md R44, 30_encoding.md R108). -/
def decode (v : RegWord) : Except DecodeError Instr :=
  if v.extractLsb' 32 32 = 0 then decodeWord (v.setWidth 32) else .error .upperBits

/-! ## The encoder -/

/-- The word of four fields: `(opc << 26) | (a << 25) | (off << 8) | w` (30_encoding.md R110). -/
def assemble (o : Opcode) (a : BitVec 1) (off : BitVec 17) (w : BitVec 8) : Word :=
  (o.code.setWidth 32 <<< 26) ||| (a.setWidth 32 <<< 25) ||| (off.setWidth 32 <<< 8) ||| w.setWidth 32

/-- The row of the opcode map an operation belongs to. -/
def Instr.opcode : Instr → Opcode
  | .nop => .nop
  | .sreset => .sreset
  | .new _ _ => .new
  | .check _ _ => .check
  | .puta _ _ _ => .puta
  | .geta _ _ _ => .geta
  | .putn _ _ _ => .putn
  | .getn _ _ _ => .getn
  | .putu _ _ _ => .putu
  | .getu _ _ _ => .getu
  | .putt _ _ => .putt
  | .gett _ _ => .gett
  | .putb _ _ => .putb
  | .getb _ _ => .getb
  | .rlenc _ => .rlenc
  | .rldec _ => .rldec
  | .rleos => .rleos
  | .rlinit => .rlinit
  | .crinit => .crinit
  | .crtake => .crtake
  | .crgrant => .crgrant

/-- The word of an operation (30_encoding.md R101, R110). -/
def encode (i : Instr) : Word :=
  match i with
  | .nop => assemble .nop 0 0 0
  | .sreset => assemble .sreset 0 0 0
  | .new a k => assemble .new a.bit 0 (BitVec.ofNat 8 k.number)
  | .check a e => assemble .check a.bit 0 (BitVec.ofNat 8 (Kind.numberOrNone e))
  | .puta a off w => assemble .puta a.bit off w
  | .geta a off w => assemble .geta a.bit off w
  | .putn a off w => assemble .putn a.bit off w
  | .getn a off w => assemble .getn a.bit off w
  | .putu a off w => assemble .putu a.bit off w
  | .getu a off w => assemble .getu a.bit off w
  | .putt a off => assemble .putt a.bit off 0
  | .gett a off => assemble .gett a.bit off 0
  | .putb a off => assemble .putb a.bit off 0
  | .getb a off => assemble .getb a.bit off 0
  | .rlenc a => assemble .rlenc a.bit 0 0
  | .rldec a => assemble .rldec a.bit 0 0
  | .rleos => assemble .rleos 0 0 0
  | .rlinit => assemble .rlinit 0 0 0
  | .crinit => assemble .crinit 0 0 0
  | .crtake => assemble .crtake 0 0 0
  | .crgrant => assemble .crgrant 0 0 0

/-- The 64-bit value by which the host issues an operation: its word, zero-extended (10_state.md R44). -/
def encodeOp (i : Instr) : RegWord := (encode i).setWidth 64

/-- The value a host write to `OP` carries for an opcode-table row's bits: `w` cut to `nbits` bits,
every bit above them 0. -/
def tableValue (nbits w : Nat) : RegWord := BitVec.ofNat 64 (w % 2 ^ nbits)

/-- The instruction the decoder reads from an opcode-table row's bits. -/
def decodeTableWord (nbits w : Nat) : Option Instr :=
  match decode (tableValue nbits w) with
  | .ok i => some i
  | .error _ => none

end Sys2Proof
end

