-- ==== Sys2Proof/Config.lean ====
section
/-! DEFINITION. What an implementation of the block fixes (00_scope.md R7): the parameters `BUF_CAP`,
`FBUF_CAP`, `FMT` and `ID_VALUE`, the constraints a legal choice meets, the values the spec proposes,
and the one free value of the model, the content of a buffer byte nothing has written. -/

namespace Sys2Proof

/-- `CTRL.VER`, the protocol version tag (10_state.md R24): 0 = V1, 1 = V2. -/
inductive Version where
  | v1
  | v2
deriving DecidableEq, Repr

/-- The part of a descriptor that a kind has in a version in which it exists (30_encoding.md R114):
`fixed`, `len` and `term`. -/
structure Layout where
  /-- the length is exact; otherwise `len` is the minimum -/
  fixed : Bool
  /-- the exact or minimum length in bytes, and the length `NEW` creates -/
  len : Nat
  /-- the command ends in a trailing control byte -/
  term : Bool
deriving DecidableEq, Repr

/-- One row of `FMT` (30_encoding.md R114): the signature, the same for both versions, and the layout
in each version. `none` is `valid` = 0: the kind does not exist in that version, and the row's other
columns are blank (R115). -/
structure FmtRow where
  sig : Byte
  v1 : Option Layout
  v2 : Option Layout
deriving DecidableEq, Repr

/-- The layout of a row in a version. -/
def FmtRow.layout (r : FmtRow) : Version → Option Layout
  | .v1 => r.v1
  | .v2 => r.v2

/-- The parameters of one instance (00_scope.md R7), fixed for its life. `fmt` holds one row a kind,
in the order of the kind numbers (30_encoding.md R112). -/
structure Params where
  bufCap : Nat
  fbufCap : Nat
  fmt : List FmtRow
  idValue : RegWord
deriving DecidableEq, Repr

namespace Config

/-- `FLD_CAP`, the fixed capacity of the field staging buffer (00_scope.md R7, 10_state.md R46). -/
def fldCap : Nat := 65535

/-- `NKIND`, the number of command kinds (00_scope.md R7). -/
def nkind : Nat := 18

/-- The signature bytes of the 18 kinds in the order of their numbers (30_encoding.md R112). The
characters are the source's, their ASCII codes the spec's general knowledge (G1). -/
def signatures : List Byte :=
  [0x49, 0x58, 0x46, 0x48, 0x32, 0x33, 0x44, 0x43, 0x54,
   0x34, 0x35, 0x52, 0x45, 0x4E, 0x50, 0x4A, 0x41, 0x53]

/-- What a byte of `A0`, `A1`, `FLD` or `FBUF` reads as when nothing has written it since `rst`
(10_state.md R51, 93_implementation_defined.md U1): any value, fixed once drawn. FREE VALUE (log 4),
applied to the State's counter `draw`, which `rst` advances, and to the byte's host offset (20_memory.md
R71). -/
opaque powerOnByte : Nat → Nat → Byte

end Config

/-- The constraints of 30_encoding.md R114 on one layout, for a buffer capacity. -/
def Layout.legal (cap : Nat) (l : Layout) : Bool :=
  decide (1 ≤ l.len) && (!l.term || decide (2 ≤ l.len)) && decide (l.len ≤ cap)

/-- The constraints a legal parameter choice meets: the ranges of 00_scope.md R7 and the constraints
of 30_encoding.md R114 on `FMT`, with the two entries the source fixes (`sig`, and `NERP`, kind 13,
not valid in V1). 93_implementation_defined.md U4 asks a model to check them at instantiation. DESIGN
CHOICE (log 24): the row of `DATA` is held to these constraints alone; that it is variable, of length 1 and
without a terminator (30_encoding.md R115, 40_frame.md R142) is a property of `FMT_DEFAULT`, not a
condition. -/
def Params.legal (p : Params) : Bool :=
  decide (1 ≤ p.bufCap) && decide (p.bufCap ≤ 131072) &&
  decide (63 ≤ p.fbufCap) && decide (p.fbufCap ≤ 131072) &&
  decide (p.fmt.map FmtRow.sig = Config.signatures) &&
  p.fmt.all (fun r => r.v1.all (Layout.legal p.bufCap) && r.v2.all (Layout.legal p.bufCap)) &&
  (p.fmt[13]?.bind FmtRow.v1).isNone

namespace Config

/-- `FMT_DEFAULT` (30_encoding.md R115). All of it but the signatures and `NERP` in V1 is general
knowledge by the spec's own word (G2). PRESUMED, log 3. -/
def fmtDefault : List FmtRow :=
  [⟨0x49, some ⟨true, 19, true⟩, some ⟨true, 19, true⟩⟩,      -- SSRM
   ⟨0x58, some ⟨true, 61, true⟩, some ⟨true, 61, true⟩⟩,      -- SSID
   ⟨0x46, some ⟨true, 4, true⟩, some ⟨false, 7, true⟩⟩,       -- ESID
   ⟨0x48, some ⟨true, 128, false⟩, some ⟨false, 165, false⟩⟩, -- SFID
   ⟨0x32, some ⟨true, 10, false⟩, some ⟨true, 18, false⟩⟩,    -- SFPA
   ⟨0x33, some ⟨true, 4, false⟩, some ⟨false, 7, false⟩⟩,     -- SFNA
   ⟨0x44, some ⟨false, 1, false⟩, some ⟨false, 1, false⟩⟩,    -- DATA
   ⟨0x43, some ⟨true, 3, false⟩, some ⟨true, 3, false⟩⟩,      -- CDT
   ⟨0x54, some ⟨true, 22, false⟩, some ⟨true, 35, false⟩⟩,    -- EFID
   ⟨0x34, some ⟨true, 2, false⟩, some ⟨true, 2, false⟩⟩,      -- EFPA
   ⟨0x35, some ⟨true, 3, false⟩, some ⟨false, 6, false⟩⟩,     -- EFNA
   ⟨0x52, some ⟨true, 1, false⟩, some ⟨true, 1, false⟩⟩,      -- CD
   ⟨0x45, some ⟨true, 106, false⟩, some ⟨false, 110, false⟩⟩, -- EERP
   ⟨0x4E, none, some ⟨false, 135, false⟩⟩,                    -- NERP
   ⟨0x50, some ⟨true, 1, false⟩, some ⟨true, 1, false⟩⟩,      -- RTR
   ⟨0x4A, none, some ⟨true, 1, false⟩⟩,                       -- SECD
   ⟨0x41, none, some ⟨false, 3, false⟩⟩,                      -- AUCH
   ⟨0x53, none, some ⟨true, 21, false⟩⟩]                      -- AURP

/-- The parameter values the spec takes (00_scope.md R7, 30_encoding.md R115). -/
def params : Params :=
  { bufCap := 99999, fbufCap := 99999, fmt := fmtDefault, idValue := 0x000000004F434631 }

end Config

end Sys2Proof
end

