-- ==== Sys2Proof/Machine/State.lean ====
section
/-! DEFINITION. The state of one instance of the block (10_state.md R20) as plain data, the host accesses
that drive it, the reasons a step can stop, and the state after reset (10_state.md R51). -/

namespace Sys2Proof.Machine

/-- The four byte buffers (10_state.md R45 to R47). -/
inductive Space where
  /-- the field staging buffer -/
  | fld
  /-- command buffer 0 -/
  | a0
  /-- command buffer 1 -/
  | a1
  /-- the file chunk buffer -/
  | fbuf
deriving DecidableEq, Repr

/-- The 21 control and status registers in the order of their numbers (10_state.md R21). -/
inductive Reg where
  | id | ctrl | status | err | errinfo | dumplen | op | val | fldlen | nxt | len0 | len1
  | kind0 | kind1 | debsize | credmax | credit | codec | fpos | flen | dpos
deriving DecidableEq, Repr

/-- The thirteen error causes (60_exceptions.md R271). -/
inductive ErrCode where
  | sig | len | term | charset | overflow | field | bounds | bytecount | subrec
  | credit | illop | version | state
deriving DecidableEq, Repr

/-- A recorded error: the fields `CODE` and `OPW` of `ERR` (10_state.md R41). -/
structure ErrRecord where
  code : ErrCode
  opw : Word
deriving DecidableEq, Repr

/-- The three fields of `CTRL` (10_state.md R23). -/
structure Ctrl where
  ver : Version
  cmpen : Bool
  ie : Bool
deriving DecidableEq, Repr

/-- The five flags of `CODEC` (10_state.md R37). -/
structure Codec where
  feor : Bool
  lasteor : Bool
  fdone : Bool
  full : Bool
  ddone : Bool
deriving DecidableEq, Repr

/-- A buffer: (index, byte) pairs for the bytes something has written since `rst`, in one canonical
form, the indices strictly rising (`Memory.wf`). An unlisted index holds no value of its own; what
reading it answers is said once, in `State.readByte` (log 4, log 5). -/
abbrev Memory := List Host.Cell

/-- One thing the outside world does to the block. `offset` is a byte offset from `OCF_BASE`, which
the model takes as 0 (20_memory.md R71); `width` is the width of the access in bits (R74). -/
inductive HostAccess where
  /-- a host read -/
  | read (width offset : Nat)
  /-- a host write; an access narrower than 64 bits carries its data in the low bits (log 16) -/
  | write (width offset : Nat) (data : RegWord)
  /-- the reset input is asserted and released (70_reset_and_hazards.md R310) -/
  | rst
deriving DecidableEq, Repr

/-- The state of one instance. The registers have the width of their live field (10_state.md R21);
`STATUS`, `OP` and `ID` hold nothing of their own (R36, R44, R22). The last three fields and `par`
are the model's own: the parameters of the run (00_scope.md R7, log 3), the host's accesses still to
be made (log 1), what the latest read returned (log 12) and the free-value counter (log 4). -/
structure State where
  /-- the parameters of the run (10_state.md R49); nothing changes them -/
  par : Params
  /-- `CTRL` -/
  ctrl : Ctrl
  /-- `ERR`; `none` is 0 (log 10) -/
  err : Option ErrRecord
  /-- `ERRINFO` -/
  errinfo : BitVec 64
  /-- `DUMPLEN` -/
  dumplen : BitVec 9
  /-- `VAL` -/
  val : BitVec 64
  /-- `FLDLEN` -/
  fldlen : BitVec 16
  /-- `NEXT` -/
  nextOff : BitVec 18
  /-- `LEN0` -/
  len0 : BitVec 18
  /-- `LEN1` -/
  len1 : BitVec 18
  /-- `KIND0`; `none` is 31, `NONE` (log 10) -/
  kind0 : Option Kind
  /-- `KIND1`; `none` is 31, `NONE` (log 10) -/
  kind1 : Option Kind
  /-- `DEBSIZE` -/
  debsize : BitVec 18
  /-- `CREDMAX` -/
  credmax : BitVec 32
  /-- `CREDIT` -/
  credit : BitVec 32
  /-- `CODEC` -/
  codec : Codec
  /-- `FPOS` -/
  fpos : BitVec 18
  /-- `FLEN` -/
  flen : BitVec 18
  /-- `DPOS` -/
  dpos : BitVec 18
  /-- `A0` -/
  a0 : Memory
  /-- `A1` -/
  a1 : Memory
  /-- `FLD` -/
  fld : Memory
  /-- `FBUF` -/
  fbuf : Memory
  /-- the host's accesses still to be made, oldest first -/
  pending : List HostAccess
  /-- what the latest access returned, if it was a read -/
  reply : Option RegWord
  /-- the counter the free value of an unwritten byte is applied to; `rst` alone advances it (log 4) -/
  draw : Nat
deriving DecidableEq, Repr

/-- Why a step stops with a fault. Only a host access raises one, never an operation. -/
inductive Fault where
  /-- the host accessed an offset at or above 0xA0000, outside the block's window (20_memory.md R70):
  raised by `locate`; SAFE, the address does not exist in the block (log 7) -/
  | outsideWindow
deriving DecidableEq, Repr

/-- Why a step is refused. Only a host access raises one, never an operation: 20_memory.md R74 and
93_implementation_defined.md U7 say that a model refuses these accesses. All are SAFE: the spec gives
them no value and no effect (log 7). -/
inductive Refusal where
  /-- an instruction the model does not have yet: raised by `exec`; SAFE. No arm of `exec` does. -/
  | notModelled (mnemonic : String)
  /-- an access to a reserved offset of the window: raised by `locate` (log 7); SAFE -/
  | reservedOffset
  /-- an access to a register number 21 to 511 (10_state.md R50): raised by `locate` (log 7); SAFE -/
  | reservedRegister
  /-- a register access at an offset that is no multiple of 8: raised by `locate` (log 7); SAFE -/
  | misalignedRegister
  /-- a register access of a width other than 64 or a buffer access of a width other than 8: raised
  by `locate` (log 7); SAFE -/
  | wrongWidth
  /-- an access to a buffer index at or above the buffer's capacity: raised by `locate` (log 7); SAFE -/
  | beyondCapacity
  /-- parameters that break the constraints of 00_scope.md R7 or 30_encoding.md R114: raised by
  `instantiate` (93_implementation_defined.md U4; log 18); SAFE -/
  | illegalParameters
deriving DecidableEq, Repr

/-- The state after reset for given parameters (10_state.md R51, 70_reset_and_hazards.md R310): every
register at the value the spec states, no buffer byte written. -/
def State.resetWith (p : Params) : State where
  par := p
  ctrl := { ver := .v1, cmpen := false, ie := false }
  err := none
  errinfo := 0
  dumplen := 0
  val := 0
  fldlen := 0
  nextOff := 0
  len0 := 0
  len1 := 0
  kind0 := none
  kind1 := none
  debsize := BitVec.ofNat 18 p.bufCap
  credmax := 0
  credit := 0
  codec := { feor := false, lasteor := false, fdone := false, full := false, ddone := false }
  fpos := 0
  flen := 0
  dpos := 1
  a0 := []
  a1 := []
  fld := []
  fbuf := []
  pending := []
  reply := none
  draw := 0

/-- The machine right after reset, with the parameter values the spec takes (log 3). -/
def State.reset : State := State.resetWith Config.params

end Sys2Proof.Machine
end

