-- ==== Sys2Proof/Machine/Flags.lean ====
section
/-! DEFINITION. The flags: `STATUS` and the interrupt output as functions of other state, and the flag
words of `CTRL` and `CODEC` as the host reads and writes them. -/

namespace Sys2Proof.Machine

/-- The error code numbers (60_exceptions.md R271). -/
def ErrCode.code : ErrCode → BitVec 8
  | .sig => 1 | .len => 2 | .term => 3 | .charset => 4 | .overflow => 5 | .field => 6
  | .bounds => 7 | .bytecount => 8 | .subrec => 9 | .credit => 10 | .illop => 11
  | .version => 12 | .state => 13

/-- A flag as a bit at position `i` of a register. -/
def flagBit (i : Nat) (b : Bool) : RegWord := if b then (1 : RegWord) <<< i else 0

/-- `STATUS.ERRV`: an error is recorded (10_state.md R36). -/
def State.errv (s : State) : Bool := s.err.isSome

/-- `STATUS.CZ`: the credit is zero (10_state.md R36). -/
def State.cz (s : State) : Bool := s.credit == 0

/-- `STATUS` as the host reads it (10_state.md R36). -/
def State.status (s : State) : RegWord := flagBit 0 s.errv ||| flagBit 1 s.cz

/-- The interrupt output `irq` (10_state.md R26, 60_exceptions.md R285). -/
def State.irq (s : State) : Bool := s.ctrl.ie && s.errv

/-- `CTRL.VER` as a bit (10_state.md R24). -/
def verBit : Version → Bool
  | .v1 => false
  | .v2 => true

/-- `CTRL` as the host reads it (10_state.md R23). -/
def Ctrl.toWord (c : Ctrl) : RegWord :=
  flagBit 0 (verBit c.ver) ||| flagBit 1 c.cmpen ||| flagBit 2 c.ie

/-- `CTRL` after a host write: bits 2:0 are stored, the others ignored (10_state.md R23). -/
def Ctrl.ofWord (v : RegWord) : Ctrl where
  ver := if v.getLsbD 0 then .v2 else .v1
  cmpen := v.getLsbD 1
  ie := v.getLsbD 2

/-- `CODEC` as the host reads it (10_state.md R37). -/
def Codec.toWord (c : Codec) : RegWord :=
  flagBit 0 c.feor ||| flagBit 1 c.lasteor ||| flagBit 2 c.fdone ||| flagBit 3 c.full |||
    flagBit 4 c.ddone

/-- `CODEC` after a host write: bit 0 is stored, the read-only flags keep their values (10_state.md R37). -/
def Codec.hostWrite (c : Codec) (v : RegWord) : Codec := { c with feor := v.getLsbD 0 }

/-- `ERR` as the host reads it: `CODE` in bits 7:0, `OPW` in bits 63:32 (10_state.md R41). -/
def errWord : Option ErrRecord → RegWord
  | none => 0
  | some r => (r.opw.setWidth 64 <<< 32) ||| r.code.code.setWidth 64

/-- `CODEC.FDONE` as `RLENC` leaves it (43_rlc.md R213, last line). -/
def encoderDone (fpos flen : Nat) (feor eorSent : Bool) : Bool :=
  fpos == flen && (!feor || eorSent)

/-- `CODEC.DDONE` as `RLDEC` leaves it (43_rlc.md R219, last line). -/
def decoderDone (dpos len : Nat) : Bool := dpos == len

end Sys2Proof.Machine
end

