-- ==== Sys2Proof/Machine/Operands.lean ====
section
/-! DEFINITION. The operand forms: the character rule of ASCII fields, decimal and big-endian fields
(00_scope.md R13), the sub-record header (30_encoding.md R127), and the command `NEW` lays out. -/

namespace Sys2Proof.Machine

/-! ## Characters (00_scope.md R13, 41_fixed_fields.md R161) -/

/-- `isdigit` (00_scope.md R13). -/
def isDigit (b : Byte) : Bool := decide (0x30 ≤ b.toNat) && decide (b.toNat ≤ 0x39)

/-- `isupper` (00_scope.md R13). -/
def isUpper (b : Byte) : Bool := decide (0x41 ≤ b.toNat) && decide (b.toNat ≤ 0x5A)

/-- `islower` (00_scope.md R13). -/
def isLower (b : Byte) : Bool := decide (0x61 ≤ b.toNat) && decide (b.toNat ≤ 0x7A)

/-- `ispunct7` (00_scope.md R13): the space and `/ - . & ( )`. -/
def isPunct7 (b : Byte) : Bool := ([0x20, 0x2F, 0x2D, 0x2E, 0x26, 0x28, 0x29] : List Byte).contains b

/-- `norm`, the silent upper-casing (00_scope.md R13). -/
def norm (b : Byte) : Byte := if isLower b then b - 0x20 else b

/-- `okchar`, tested after `norm` (00_scope.md R13). -/
def okChar (b : Byte) : Bool := isUpper b || isDigit b || isPunct7 b

/-- A byte the character rule accepts (41_fixed_fields.md R161). -/
def acceptable (b : Byte) : Bool := okChar (norm b)

/-- The index of the first byte that fails a test. -/
def firstBad (ok : Byte → Bool) (bs : List Byte) : Option Nat := bs.findIdx? (fun b => !ok b)

/-! ## Numbers in bytes (00_scope.md R13) -/

/-- `dec(v, w)`: `w` decimal digits, the most significant first (00_scope.md R13). -/
def dec (v w : Nat) : List Byte :=
  (List.range w).map (fun i => BitVec.ofNat 8 (0x30 + v / 10 ^ (w - 1 - i) % 10))

/-- The value of a string of digits in a base, the most significant first. -/
def digitsValue (base : Nat) (ds : List Nat) : Nat := ds.foldl (fun acc d => acc * base + d) 0

/-- `undec(S)` (00_scope.md R13). -/
def undec (bs : List Byte) : Nat := digitsValue 10 (bs.map (fun b => b.toNat - 0x30))

/-- `be(v, w)`: `w` bytes, the most significant first (00_scope.md R13). -/
def be (v w : Nat) : List Byte :=
  (List.range w).map (fun i => BitVec.ofNat 8 (v / 256 ^ (w - 1 - i) % 256))

/-- `unbe(S)` (00_scope.md R13). -/
def unbe (bs : List Byte) : Nat := digitsValue 256 (bs.map BitVec.toNat)

/-! ## Sub-record headers (30_encoding.md R127) -/

/-- The header byte of a sub-record: `EOR` in bit 7, `REP` in bit 6, the count in bits 5:0. -/
def subHeader (eor rep : Bool) (n : Nat) : Byte :=
  BitVec.ofNat 8 ((if eor then 0x80 else 0) + (if rep then 0x40 else 0) + n)

/-- Bit 7 of a header, `EOR`. -/
def headerEor (h : Byte) : Bool := h.getLsbD 7

/-- Bit 6 of a header, `REP`. -/
def headerRep (h : Byte) : Bool := h.getLsbD 6

/-- Bits 5:0 of a header, `n`. -/
def headerCount (h : Byte) : Nat := (h.extractLsb' 0 6).toNat

/-! ## Commands (30_encoding.md R120, 40_frame.md R141) -/

/-- A trailing control byte `CHECK` accepts (30_encoding.md R120). -/
def isTerminator (b : Byte) : Bool := b == 0x0D || b == 0x8D

/-- The bytes `NEW` writes: the signature, spaces, and 0x0D last if the kind has a terminator
(40_frame.md R141). -/
def blankCommand (sig : Byte) (l : Layout) : List Byte :=
  let spaced := sig :: List.replicate (l.len - 1) 0x20
  if l.term then spaced.set (l.len - 1) 0x0D else spaced

end Sys2Proof.Machine
end

