-- ==== Sys2Proof/Machine/Ops.lean ====
section
/-! DEFINITION. The named operations over buffers and registers, the entry into the error state and the
return from it, and what the field operations share. -/

namespace Sys2Proof

/-! ## Arenas and descriptors -/

/-- The command buffer an arena bit selects (00_scope.md R11). -/
def Arena.space : Arena → Machine.Space
  | .a0 => .a0
  | .a1 => .a1

/-- The arena bit as a number, the `ERRINFO` of `E_STATE` (60_exceptions.md R271). -/
def Arena.number : Arena → Nat
  | .a0 => 0
  | .a1 => 1

/-- The row of `FMT` of a kind. -/
def Params.row (p : Params) (k : Kind) : FmtRow := p.fmt.getD k.number ⟨0, none, none⟩

/-- `FMT[k][_].sig`. -/
def Params.sig (p : Params) (k : Kind) : Byte := (p.row k).sig

/-- The descriptor's layout `FMT[k][v]`, `none` where `valid` is 0. -/
def Params.layout (p : Params) (k : Kind) (v : Version) : Option Layout := (p.row k).layout v

/-- The kind whose signature a byte is (40_frame.md R145); unique for a legal `FMT` (30_encoding.md
R112), the first in the order of the numbers otherwise (log 17). -/
def Params.kindOfSig (p : Params) (b : Byte) : Option Kind := Kind.all.find? (fun k => p.sig k == b)

end Sys2Proof

namespace Sys2Proof.Machine

/-! ## Buffers -/

/-- The byte listed at an index: the last one written there since `rst`, if any. -/
def Memory.lookup (m : Memory) (i : Nat) : Option Byte :=
  (m.find? (fun c => c.1 == i)).map Prod.snd

/-- Bytes as (index, byte) pairs at consecutive indices from `lo`. -/
def Memory.cells (lo : Nat) : List Byte → Memory
  | [] => []
  | b :: bs => (lo, b) :: Memory.cells (lo + 1) bs

/-- Writes bytes at consecutive indices from `lo`, the first at the lowest (20_memory.md R77). -/
def Memory.write (m : Memory) (lo : Nat) (bs : List Byte) : Memory :=
  m.filter (fun c => decide (c.1 < lo)) ++ Memory.cells lo bs ++
    m.filter (fun c => decide (lo + bs.length ≤ c.1))

/-- The canonical form of a buffer of a given capacity: indices strictly rising, all below the
capacity. An unlisted index holds no value, so no entry can equal it (log 5). -/
abbrev Memory.wf (cap : Nat) (m : Memory) : Prop :=
  m.Pairwise (fun c d => c.1 < d.1) ∧ ∀ c ∈ m, c.1 < cap

/-- The host offset of a buffer's byte 0 (20_memory.md R71). -/
def Space.base : Space → Nat
  | .fld => 0x20000
  | .a0 => 0x40000
  | .a1 => 0x60000
  | .fbuf => 0x80000

/-- The capacity of a buffer (10_state.md R45 to R47). -/
def Space.cap (p : Params) : Space → Nat
  | .fld => Config.fldCap
  | .a0 => p.bufCap
  | .a1 => p.bufCap
  | .fbuf => p.fbufCap

/-- A buffer's listed bytes. -/
def State.buf (s : State) : Space → Memory
  | .fld => s.fld
  | .a0 => s.a0
  | .a1 => s.a1
  | .fbuf => s.fbuf

/-- Writes bytes into a buffer at consecutive indices from `lo`. -/
def State.writeBytes (s : State) (sp : Space) (lo : Nat) (bs : List Byte) : State :=
  match sp with
  | .fld => { s with fld := Memory.write s.fld lo bs }
  | .a0 => { s with a0 := Memory.write s.a0 lo bs }
  | .a1 => { s with a1 := Memory.write s.a1 lo bs }
  | .fbuf => { s with fbuf := Memory.write s.fbuf lo bs }

/-- Byte `i` of a buffer: the last one written there, or, where nothing has written since `rst`, the
free value (10_state.md R48, R51; log 4). -/
def State.readByte (s : State) (sp : Space) (i : Nat) : Byte :=
  ((s.buf sp).lookup i).getD (Config.powerOnByte s.draw (sp.base + i))

/-- The `n` bytes of a buffer from index `lo` on, the first at the lowest (20_memory.md R77). -/
def State.readBytes (s : State) (sp : Space) (lo n : Nat) : List Byte :=
  (List.range n).map (fun j => s.readByte sp (lo + j))

/-! ## Per-arena registers -/

/-- `LEN[a]` (00_scope.md R11). -/
def State.len (s : State) : Arena → Nat
  | .a0 => s.len0.toNat
  | .a1 => s.len1.toNat

/-- `KIND[a]` (00_scope.md R11), `none` for `NONE`. -/
def State.kind (s : State) : Arena → Option Kind
  | .a0 => s.kind0
  | .a1 => s.kind1

/-- `LEN[a] <- n`. -/
def State.setLen (s : State) (a : Arena) (n : Nat) : State :=
  match a with
  | .a0 => { s with len0 := BitVec.ofNat 18 n }
  | .a1 => { s with len1 := BitVec.ofNat 18 n }

/-- `KIND[a] <- k`. -/
def State.setKind (s : State) (a : Arena) (k : Option Kind) : State :=
  match a with
  | .a0 => { s with kind0 := k }
  | .a1 => { s with kind1 := k }

/-- `NEXT <- n`. -/
def State.setNext (s : State) (n : Nat) : State := { s with nextOff := BitVec.ofNat 18 n }

/-! ## The current descriptor (30_encoding.md R114) -/

/-- `FMT[k][CTRL.VER]` (40_frame.md R141, R145). -/
def State.layout (s : State) (k : Kind) : Option Layout := s.par.layout k s.ctrl.ver

/-! ## Errors (60_exceptions.md R275, R280) -/

/-- Error entry: what `raise E_X(info)` does during the operation whose word is `opw`
(60_exceptions.md R275). Nothing else is saved and nothing else changes. -/
def State.recordError (s : State) (opw : Word) (e : ErrCode) (info dump : Nat) : State :=
  { s with
    err := some { code := e, opw := opw }
    errinfo := BitVec.ofNat 64 info
    dumplen := BitVec.ofNat 9 dump }

/-- The return from the error state, which a host write to `ERR` makes (60_exceptions.md R280). -/
def State.acknowledge (s : State) : State := { s with err := none, errinfo := 0, dumplen := 0 }

/-- `raise` in the pseudocode of any operation but `CHECK`: the dump length is 0 (60_exceptions.md
R275). -/
def raise (i : Instr) (e : ErrCode) (info : Nat) (s : State) : Host.Outcome State Fault Refusal :=
  .next (s.recordError (encode i) e info 0)

/-- The length of the diagnostic dump of arena `a` (10_state.md R43). -/
def State.dumpLength (s : State) (a : Arena) : Nat := min (s.len a) 256

/-- `raise` in the pseudocode of `CHECK` on arena `a` (60_exceptions.md R275, 10_state.md R43). -/
def raiseCheck (i : Instr) (a : Arena) (e : ErrCode) (info : Nat) (s : State) :
    Host.Outcome State Fault Refusal :=
  .next (s.recordError (encode i) e info (s.dumpLength a))

/-! ## What the field operations share -/

/-- The two tests that open every field operation (41_fixed_fields.md R160, 42_variable_fields.md R192
to R195): the arena has a live view, and the field or prefix that ends at `stop` lies inside the
command. -/
def inView (i : Instr) (a : Arena) (stop : Nat) (s : State)
    (body : Host.Outcome State Fault Refusal) : Host.Outcome State Fault Refusal :=
  if s.kind a = none then raise i .state a.number s
  else if stop ≤ s.len a then body
  else raise i .bounds stop s

/-- Stores a fixed field at `off` and sets `NEXT` (41_fixed_fields.md R163, R166, R169). -/
def State.storeField (s : State) (a : Arena) (off : Nat) (bs : List Byte) : State :=
  (s.writeBytes a.space off bs).setNext (off + bs.length)

/-- Delivers a byte string in `FLD` with its length in `FLDLEN`, and sets `NEXT` (41_fixed_fields.md
R164, 42_variable_fields.md R193, R195). -/
def State.deliver (s : State) (bs : List Byte) (stop : Nat) : State :=
  ({ s.writeBytes .fld 0 bs with fldlen := BitVec.ofNat 16 bs.length }).setNext stop

/-- Delivers a number in `VAL` and sets `NEXT` (41_fixed_fields.md R167, R170). -/
def State.deliverNumber (s : State) (v stop : Nat) : State :=
  ({ s with val := BitVec.ofNat 64 v }).setNext stop

/-- The byte-string operand `FLD[0..FLDLEN)` (30_encoding.md R102). -/
def State.staged (s : State) : List Byte := s.readBytes .fld 0 s.fldlen.toNat

/-- The step `RESIZE(a, off, P, old, new)` after its test (42_variable_fields.md R191): the tail moves
by `new - old` and `LEN[a]` changes by as much. With `new = old` it changes nothing. -/
def State.resize (s : State) (a : Arena) (off p old new : Nat) : State :=
  if new = old then s
  else
    let tail := s.readBytes a.space (off + p + old) (s.len a - (off + p + old))
    (s.writeBytes a.space (off + p + new) tail).setLen a (s.len a - old + new)

/-- The end of `PUTT` and `PUTB` (42_variable_fields.md R192, R194): the ceiling test of the resize
step, the resize, then the new prefix and body, and `NEXT`. -/
def installVariable (i : Instr) (a : Arena) (off old : Nat) (pre body : List Byte) (s : State) :
    Host.Outcome State Fault Refusal :=
  let newlen := s.len a - old + body.length
  if newlen ≤ s.debsize.toNat then
    .next ((((s.resize a off pre.length old body.length).writeBytes a.space off pre).writeBytes
      a.space (off + pre.length) body).setNext (off + pre.length + body.length))
  else raise i .bounds newlen s

end Sys2Proof.Machine
end

