-- ==== Sys2Proof/Machine/Credit.lean ====
section
/-! DEFINITION. The credit counter (44_credit.md). -/

namespace Sys2Proof.Machine

/-- `CREDIT <- CREDMAX` (44_credit.md R241, R243). -/
def State.loadCredit (s : State) : State := { s with credit := s.credmax }

/-- `CRINIT` (44_credit.md R241). -/
def execCrinit (s : State) : Host.Outcome State Fault Refusal := .next s.loadCredit

/-- `CRTAKE` (44_credit.md R242). -/
def execCrtake (s : State) : Host.Outcome State Fault Refusal :=
  if 0 < s.credit.toNat then .next { s with credit := s.credit - 1 } else raise .crtake .credit 0 s

/-- `CRGRANT` (44_credit.md R243). -/
def execCrgrant (s : State) : Host.Outcome State Fault Refusal :=
  if s.credit.toNat = 0 then .next s.loadCredit else raise .crgrant .credit s.credit.toNat s

end Sys2Proof.Machine
end

