-- ==== Sys2Proof/Machine/FixedFields.lean ====
section
/-! DEFINITION. The fixed-width field operations (41_fixed_fields.md). -/

namespace Sys2Proof.Machine

/-- An ASCII value padded with spaces to a width (41_fixed_fields.md R163, 30_encoding.md R121). -/
def padded (bs : List Byte) (w : Nat) : List Byte := bs.map norm ++ List.replicate (w - bs.length) 0x20

/-- `PUTA a, off, w` (41_fixed_fields.md R163). -/
def execPuta (a : Arena) (off : BitVec 17) (w : BitVec 8) (s : State) :
    Host.Outcome State Fault Refusal :=
  inView (.puta a off w) a (off.toNat + w.toNat) s
    (if s.fldlen.toNat ≤ w.toNat then
      match firstBad acceptable s.staged with
      | some j => raise (.puta a off w) .charset j s
      | none => .next (s.storeField a off.toNat (padded s.staged w.toNat))
    else raise (.puta a off w) .overflow s.fldlen.toNat s)

/-- `GETA a, off, w` (41_fixed_fields.md R164). -/
def execGeta (a : Arena) (off : BitVec 17) (w : BitVec 8) (s : State) :
    Host.Outcome State Fault Refusal :=
  inView (.geta a off w) a (off.toNat + w.toNat) s
    (let bs := s.readBytes a.space off.toNat w.toNat
    match firstBad acceptable bs with
    | some j => raise (.geta a off w) .charset (off.toNat + j) s
    | none => .next (s.deliver (bs.map norm) (off.toNat + w.toNat)))

/-- `PUTN a, off, w` (41_fixed_fields.md R166). -/
def execPutn (a : Arena) (off : BitVec 17) (w : BitVec 8) (s : State) :
    Host.Outcome State Fault Refusal :=
  inView (.putn a off w) a (off.toNat + w.toNat) s
    (if s.val.toNat < 10 ^ w.toNat then .next (s.storeField a off.toNat (dec s.val.toNat w.toNat))
    else raise (.putn a off w) .overflow w.toNat s)

/-- `GETN a, off, w` (41_fixed_fields.md R167). -/
def execGetn (a : Arena) (off : BitVec 17) (w : BitVec 8) (s : State) :
    Host.Outcome State Fault Refusal :=
  inView (.getn a off w) a (off.toNat + w.toNat) s
    (let bs := s.readBytes a.space off.toNat w.toNat
    match firstBad isDigit bs with
    | some j => raise (.getn a off w) .field (off.toNat + j) s
    | none => .next (s.deliverNumber (undec bs) (off.toNat + w.toNat)))

/-- `PUTU a, off, w` (41_fixed_fields.md R169). -/
def execPutu (a : Arena) (off : BitVec 17) (w : BitVec 8) (s : State) :
    Host.Outcome State Fault Refusal :=
  inView (.putu a off w) a (off.toNat + w.toNat) s
    (if s.val.toNat < 256 ^ w.toNat then .next (s.storeField a off.toNat (be s.val.toNat w.toNat))
    else raise (.putu a off w) .overflow w.toNat s)

/-- `GETU a, off, w` (41_fixed_fields.md R170). -/
def execGetu (a : Arena) (off : BitVec 17) (w : BitVec 8) (s : State) :
    Host.Outcome State Fault Refusal :=
  inView (.getu a off w) a (off.toNat + w.toNat) s
    (.next (s.deliverNumber (unbe (s.readBytes a.space off.toNat w.toNat)) (off.toNat + w.toNat)))

end Sys2Proof.Machine
end

