-- ==== Sys2Proof/Machine/Frame.lean ====
section
/-! DEFINITION. The frame operations `NEW` and `CHECK` (40_frame.md). -/

namespace Sys2Proof.Machine

/-- What `NEW` does where the kind exists in the current version (40_frame.md R141). -/
def State.newCommand (s : State) (a : Arena) (k : Kind) (l : Layout) : State :=
  (((s.writeBytes a.space 0 (blankCommand (s.par.sig k) l)).setLen a l.len).setKind a (some k)).setNext 1

/-- `NEW a, k` (40_frame.md R141). -/
def execNew (a : Arena) (k : Kind) (s : State) : Host.Outcome State Fault Refusal :=
  match s.layout k with
  | none => raise (.new a k) .version k.number s
  | some l => .next (s.newCommand a k l)

/-- The length test (b) of `CHECK` (40_frame.md R145). -/
def State.lengthFits (s : State) (a : Arena) (l : Layout) : Bool :=
  if l.fixed then decide (s.len a = l.len)
  else decide (l.len ≤ s.len a) && decide (s.len a ≤ s.debsize.toNat)

/-- The last byte of the command in an arena (30_encoding.md R120). -/
def State.lastByte (s : State) (a : Arena) : Byte := s.readByte a.space (s.len a - 1)

/-- What a successful `CHECK` writes (40_frame.md R145). -/
def State.checked (s : State) (a : Arena) (k : Kind) : State :=
  if k = .data then { s.setKind a (some k) with dpos := 1 } else s.setKind a (some k)

/-- `CHECK` from the length test (b) on, the kind being known (40_frame.md R145). -/
def checkLayout (i : Instr) (a : Arena) (k : Kind) (l : Layout) (s : State) :
    Host.Outcome State Fault Refusal :=
  if s.lengthFits a l then
    if l.term && !isTerminator (s.lastByte a) then raiseCheck i a .term (s.lastByte a).toNat s
    else .next (s.checked a k)
  else raiseCheck i a .len (s.len a) s

/-- `CHECK a, ANY`: the kind is looked up from the signature byte (40_frame.md R145). -/
def checkAny (i : Instr) (a : Arena) (s : State) : Host.Outcome State Fault Refusal :=
  if s.len a = 0 then raiseCheck i a .len 0 s
  else
    match s.par.kindOfSig (s.readByte a.space 0) with
    | none => raiseCheck i a .sig (s.readByte a.space 0).toNat s
    | some k =>
      match s.layout k with
      | none => raiseCheck i a .version k.number s
      | some l => checkLayout i a k l s

/-- `CHECK a, k` for an expected kind (40_frame.md R145). -/
def checkKind (i : Instr) (a : Arena) (k : Kind) (s : State) : Host.Outcome State Fault Refusal :=
  match s.layout k with
  | none => raiseCheck i a .version k.number s
  | some l =>
    if s.len a = 0 then raiseCheck i a .len 0 s
    else if s.readByte a.space 0 = s.par.sig k then checkLayout i a k l s
    else raiseCheck i a .sig (s.readByte a.space 0).toNat s

/-- `CHECK a, e` (40_frame.md R145). -/
def execCheck (a : Arena) (e : Option Kind) (s : State) : Host.Outcome State Fault Refusal :=
  match e with
  | none => checkAny (.check a none) a s
  | some k => checkKind (.check a (some k)) a k s

end Sys2Proof.Machine
end

