-- ==== Sys2Proof/Machine/Rlc.lean ====
section
/-! DEFINITION. The run-length sub-record codec (43_rlc.md): the encoder and the decoder as functions on
bytes, and the four operations over them. The chunk and the command lie in different buffers, so reading
the source whole before the first write is what the pseudocode does (log 15). -/

namespace Sys2Proof.Machine

/-! ## The encoder -/

/-- `runlen` at the head of what is left of the chunk (43_rlc.md R212): the bytes equal to the first,
counted forward, at most 63. -/
def runLen : List Byte → Nat
  | [] => 0
  | b :: bs => 1 + ((bs.take 62).takeWhile (fun c => c == b)).length

/-- A repeat sub-record begins here: compression is on and the run is longer than 4 (43_rlc.md R213). -/
def collapses (cmpen : Bool) (chunk : List Byte) : Bool := cmpen && decide (4 < runLen chunk)

/-- How many bytes of `chunk` join a literal sub-record that may take `budget` more: it ends where a
collapsible run begins (43_rlc.md R213, the inner loop). -/
def literalExtra (cmpen : Bool) : Nat → List Byte → Nat
  | 0, _ => 0
  | _ + 1, [] => 0
  | k + 1, b :: bs => if collapses cmpen (b :: bs) then 0 else 1 + literalExtra cmpen k bs

/-- How many bytes of a chunk the next sub-record takes: a collapsible run whole, otherwise a literal of
at least 1 byte, at most 63, with `1 + n` bytes in the room (43_rlc.md R213). -/
def subRecordSpan (cmpen : Bool) (room : Nat) (chunk : List Byte) : Nat :=
  if collapses cmpen chunk then runLen chunk
  else 1 + literalExtra cmpen (min 62 (room - 2)) chunk.tail

/-- The bytes of the next sub-record of a chunk (43_rlc.md R213). The end-of-record bit is set when it
takes the chunk's last byte and `feor` is set. -/
def subRecord (cmpen feor : Bool) (room : Nat) (chunk : List Byte) : List Byte :=
  let n := subRecordSpan cmpen room chunk
  let eor := feor && (chunk.drop n).isEmpty
  if collapses cmpen chunk then subHeader eor true n :: chunk.take 1
  else subHeader eor false n :: chunk.take n

/-- What an encoding appends to the command, how much of the chunk it took, and whether it sent the
end-of-record bit. -/
structure Encoded where
  bytes : List Byte
  used : Nat
  eorSent : Bool
deriving DecidableEq, Repr

/-- The outer loop of `RLENC` (43_rlc.md R213): sub-records while the chunk and 2 bytes of room last.
The fuel is the chunk's length, which every sub-record shortens. -/
def encodeLoop (cmpen feor : Bool) : Nat → Nat → List Byte → Encoded
  | 0, _, _ => ⟨[], 0, false⟩
  | fuel + 1, room, chunk =>
    if chunk.isEmpty || decide (room < 2) then ⟨[], 0, false⟩
    else
      let n := subRecordSpan cmpen room chunk
      let bs := subRecord cmpen feor room chunk
      let rest := encodeLoop cmpen feor fuel (room - bs.length) (chunk.drop n)
      ⟨bs ++ rest.bytes, n + rest.used, (feor && (chunk.drop n).isEmpty) || rest.eorSent⟩

/-- The empty record, the header 0x80 alone, if a byte of room is left (43_rlc.md R213). -/
def encodeEmptyRecord (room : Nat) : Encoded :=
  if 1 ≤ room then ⟨[subHeader true false 0], 0, true⟩ else ⟨[], 0, false⟩

/-- What `RLENC` appends for the bytes `FBUF[FPOS..FLEN)` (43_rlc.md R213). -/
def State.encoded (s : State) (a : Arena) : Encoded :=
  let room := s.debsize.toNat - s.len a
  let chunk := s.readBytes .fbuf s.fpos.toNat (s.flen.toNat - s.fpos.toNat)
  if s.flen = 0 ∧ s.codec.feor = true then encodeEmptyRecord room
  else encodeLoop s.ctrl.cmpen s.codec.feor chunk.length room chunk

/-- What `RLENC` writes (43_rlc.md R213). -/
def State.appendEncoded (s : State) (a : Arena) (e : Encoded) : State :=
  let t := (s.writeBytes a.space (s.len a) e.bytes).setLen a (s.len a + e.bytes.length)
  { t with
    fpos := BitVec.ofNat 18 (s.fpos.toNat + e.used)
    codec := { s.codec with
      fdone := encoderDone (s.fpos.toNat + e.used) s.flen.toNat s.codec.feor e.eorSent } }

/-- `RLENC a` (43_rlc.md R213). -/
def execRlenc (a : Arena) (s : State) : Host.Outcome State Fault Refusal :=
  if s.kind a = some .data then
    if s.fpos.toNat ≤ s.flen.toNat then .next (s.appendEncoded a (s.encoded a))
    else raise (.rlenc a) .bounds s.fpos.toNat s
  else raise (.rlenc a) .state a.number s

/-! ## The decoder -/

/-- Why the loop of `RLDEC` ends (43_rlc.md R219). -/
inductive DecodeStop where
  /-- the end of the command -/
  | atEnd
  /-- a sub-record with the end-of-record bit -/
  | atEor
  /-- the next sub-record does not fit in `FBUF` -/
  | bufferFull
  /-- a header announces more data than the command holds -/
  | truncated
deriving DecidableEq, Repr

/-- What the sub-records before the stop delivered, how many bytes of the command they took, the
end-of-record bit of the last of them if there was one, and why the loop ended. -/
structure Decoded where
  bytes : List Byte
  used : Nat
  lastEor : Option Bool
  stop : DecodeStop
deriving DecidableEq, Repr

/-- The data bytes that follow a header in the command (43_rlc.md R219, `need`). -/
def headerNeed (h : Byte) : Nat := if headerRep h then 1 else headerCount h

/-- The bytes a sub-record stands for, `rest` being what follows its header (30_encoding.md R127). -/
def expandRecord (h : Byte) (rest : List Byte) : List Byte :=
  if headerRep h then List.replicate (headerCount h) (rest.headD 0) else rest.take (headerCount h)

/-- The loop of `RLDEC` (43_rlc.md R219) over the rest of the command, `room` being what `FBUF` can
still take. The fuel is the number of bytes left, which every sub-record lowers. -/
def decodeLoop : Nat → Nat → List Byte → Decoded
  | _, _, [] => ⟨[], 0, none, .atEnd⟩
  | 0, _, _ :: _ => ⟨[], 0, none, .atEnd⟩
  | fuel + 1, room, h :: rest =>
    if rest.length < headerNeed h then ⟨[], 0, none, .truncated⟩
    else if room < headerCount h then ⟨[], 0, none, .bufferFull⟩
    else if headerEor h then ⟨expandRecord h rest, 1 + headerNeed h, some true, .atEor⟩
    else
      let d := decodeLoop fuel (room - headerCount h) (rest.drop (headerNeed h))
      ⟨expandRecord h rest ++ d.bytes, 1 + headerNeed h + d.used, some (d.lastEor.getD false), d.stop⟩

/-- What `RLDEC` expands (43_rlc.md R219). -/
def State.decoded (s : State) (a : Arena) : Decoded :=
  let bs := s.readBytes a.space s.dpos.toNat (s.len a - s.dpos.toNat)
  decodeLoop bs.length (s.par.fbufCap - s.flen.toNat) bs

/-- The state the loop of `RLDEC` leaves: the delivered bytes, the cursors, and the flags it writes on
the way (43_rlc.md R219). -/
def State.appendDecoded (s : State) (d : Decoded) : State :=
  { s.writeBytes .fbuf s.flen.toNat d.bytes with
    flen := BitVec.ofNat 18 (s.flen.toNat + d.bytes.length)
    dpos := BitVec.ofNat 18 (s.dpos.toNat + d.used)
    codec := { s.codec with
      feor := decide (d.stop = .atEor)
      full := decide (d.stop = .bufferFull)
      lasteor := d.lastEor.getD s.codec.lasteor } }

/-- The last line of `RLDEC`, `CODEC.DDONE` (43_rlc.md R219). -/
def State.setDdone (s : State) (a : Arena) : State :=
  { s with codec := { s.codec with ddone := decoderDone s.dpos.toNat (s.len a) } }

/-- `RLDEC a` (43_rlc.md R219). `E_SUBREC` is raised in the state the sub-records before it have left
(60_exceptions.md R276). -/
def execRldec (a : Arena) (s : State) : Host.Outcome State Fault Refusal :=
  if s.kind a = some .data then
    if 1 ≤ s.dpos.toNat ∧ s.dpos.toNat ≤ s.len a then
      let d := s.decoded a
      let t := s.appendDecoded d
      if d.stop = .truncated then raise (.rldec a) .subrec (s.dpos.toNat + d.used) t
      else .next (t.setDdone a)
    else raise (.rldec a) .bounds s.dpos.toNat s
  else raise (.rldec a) .state a.number s

/-! ## Start and end of a stream -/

/-- `RLINIT` (43_rlc.md R211). -/
def execRlinit (s : State) : Host.Outcome State Fault Refusal :=
  .next { s with
    codec := { feor := false, lasteor := false, fdone := false, full := false, ddone := false }
    fpos := 0
    flen := 0 }

/-- `RLEOS` (43_rlc.md R224). -/
def execRleos (s : State) : Host.Outcome State Fault Refusal :=
  if s.codec.lasteor = true then .next s else raise .rleos .bytecount 0 s

end Sys2Proof.Machine
end

