-- ==== Sys2Proof/Machine/System.lean ====
section
/-! DEFINITION. The system operations `NOP` and `SRESET` (45_system.md). -/

namespace Sys2Proof.Machine

/-- Every register at its reset value, the buffers as they are (45_system.md R262, 10_state.md R51). -/
def State.resetRegisters (s : State) : State :=
  { State.resetWith s.par with
    a0 := s.a0
    a1 := s.a1
    fld := s.fld
    fbuf := s.fbuf
    pending := s.pending
    reply := s.reply
    draw := s.draw }

/-- `NOP` (45_system.md R261): writes nothing. -/
def execNop (s : State) : Host.Outcome State Fault Refusal := .next s

/-- `SRESET` (45_system.md R262). -/
def execSreset (s : State) : Host.Outcome State Fault Refusal := .next s.resetRegisters

end Sys2Proof.Machine
end

