-- ==== Sys2Proof/Machine/VariableFields.lean ====
section
/-! DEFINITION. The variable-length field operations (42_variable_fields.md). -/

namespace Sys2Proof.Machine

/-- The text prefix at `off`: its three bytes are read and tested for digits, and the body it announces
must lie inside the command (42_variable_fields.md R192, R193). `body` goes on with the body length. -/
def textField (i : Instr) (a : Arena) (off : Nat) (s : State)
    (body : Nat → Host.Outcome State Fault Refusal) : Host.Outcome State Fault Refusal :=
  inView i a (off + 3) s
    (let pre := s.readBytes a.space off 3
    match firstBad isDigit pre with
    | some j => raise i .field (off + j) s
    | none => if off + 3 + undec pre ≤ s.len a then body (undec pre)
      else raise i .bounds (off + 3 + undec pre) s)

/-- The binary prefix at `off`, as `textField` (42_variable_fields.md R194, R195). -/
def binaryField (i : Instr) (a : Arena) (off : Nat) (s : State)
    (body : Nat → Host.Outcome State Fault Refusal) : Host.Outcome State Fault Refusal :=
  inView i a (off + 2) s
    (let n := unbe (s.readBytes a.space off 2)
    if off + 2 + n ≤ s.len a then body n else raise i .bounds (off + 2 + n) s)

/-- `PUTT a, off` (42_variable_fields.md R192). -/
def execPutt (a : Arena) (off : BitVec 17) (s : State) : Host.Outcome State Fault Refusal :=
  textField (.putt a off) a off.toNat s (fun old =>
    if s.fldlen.toNat ≤ 999 then
      installVariable (.putt a off) a off.toNat old (dec s.fldlen.toNat 3) s.staged s
    else raise (.putt a off) .overflow s.fldlen.toNat s)

/-- `GETT a, off` (42_variable_fields.md R193). -/
def execGett (a : Arena) (off : BitVec 17) (s : State) : Host.Outcome State Fault Refusal :=
  textField (.gett a off) a off.toNat s (fun n =>
    .next (s.deliver (s.readBytes a.space (off.toNat + 3) n) (off.toNat + 3 + n)))

/-- `PUTB a, off` (42_variable_fields.md R194). -/
def execPutb (a : Arena) (off : BitVec 17) (s : State) : Host.Outcome State Fault Refusal :=
  binaryField (.putb a off) a off.toNat s (fun old =>
    installVariable (.putb a off) a off.toNat old (be s.fldlen.toNat 2) s.staged s)

/-- `GETB a, off` (42_variable_fields.md R195). -/
def execGetb (a : Arena) (off : BitVec 17) (s : State) : Host.Outcome State Fault Refusal :=
  binaryField (.getb a off) a off.toNat s (fun n =>
    .next (s.deliver (s.readBytes a.space (off.toNat + 2) n) (off.toNat + 2 + n)))

end Sys2Proof.Machine
end

