-- ==== Sys2Proof/Machine/Dispatch.lean ====
section
/-! DEFINITION. The meaning of every operation: one arm per row of the opcode map (30_encoding.md R103). -/

namespace Sys2Proof.Machine

def exec (i : Instr) (s : State) : Host.Outcome State Fault Refusal :=
  match i with
  | .nop => Sys2Proof.Machine.execNop s
  | .sreset => Sys2Proof.Machine.execSreset s
  | .new a k => Sys2Proof.Machine.execNew a k s
  | .check a e => Sys2Proof.Machine.execCheck a e s
  | .puta a off w => Sys2Proof.Machine.execPuta a off w s
  | .geta a off w => Sys2Proof.Machine.execGeta a off w s
  | .putn a off w => Sys2Proof.Machine.execPutn a off w s
  | .getn a off w => Sys2Proof.Machine.execGetn a off w s
  | .putu a off w => Sys2Proof.Machine.execPutu a off w s
  | .getu a off w => Sys2Proof.Machine.execGetu a off w s
  | .putt a off => Sys2Proof.Machine.execPutt a off s
  | .gett a off => Sys2Proof.Machine.execGett a off s
  | .putb a off => Sys2Proof.Machine.execPutb a off s
  | .getb a off => Sys2Proof.Machine.execGetb a off s
  | .rlenc a => Sys2Proof.Machine.execRlenc a s
  | .rldec a => Sys2Proof.Machine.execRldec a s
  | .rleos => Sys2Proof.Machine.execRleos s
  | .rlinit => Sys2Proof.Machine.execRlinit s
  | .crinit => Sys2Proof.Machine.execCrinit s
  | .crtake => Sys2Proof.Machine.execCrtake s
  | .crgrant => Sys2Proof.Machine.execCrgrant s

end Sys2Proof.Machine
end

