-- ==== Sys2Proof/Machine/HostPort.lean ====
section
/-! DEFINITION. The host's side of the block: the address window (20_memory.md R71), the reads and writes
of the registers and the buffers (10_state.md), the write to `OP` that executes an operation (40_frame.md
R140), and the reset input (70_reset_and_hazards.md R310). -/

namespace Sys2Proof.Machine

/-! ## The window (20_memory.md R71, R74) -/

/-- The registers in the order of their numbers (10_state.md R21). -/
def Reg.all : List Reg :=
  [.id, .ctrl, .status, .err, .errinfo, .dumplen, .op, .val, .fldlen, .nxt, .len0, .len1,
   .kind0, .kind1, .debsize, .credmax, .credit, .codec, .fpos, .flen, .dpos]

/-- What a host access reaches, or why the spec gives it no meaning. -/
inductive Located where
  /-- a register -/
  | reg (r : Reg)
  /-- a byte of a buffer -/
  | byte (sp : Space) (i : Nat)
  /-- outside the window -/
  | fault (r : Fault)
  /-- an access a model refuses (20_memory.md R74) -/
  | refused (r : Refusal)
deriving DecidableEq, Repr

/-- An access in the register region (20_memory.md R71, R74). -/
def locateReg (width offset : Nat) : Located :=
  if width ≠ 64 then .refused .wrongWidth
  else if offset % 8 ≠ 0 then .refused .misalignedRegister
  else
    match Reg.all[offset / 8]? with
    | some r => .reg r
    | none => .refused .reservedRegister

/-- An access at index `i` of a buffer's range (20_memory.md R71, R74). -/
def locateByte (p : Params) (width : Nat) (sp : Space) (i : Nat) : Located :=
  if width ≠ 8 then .refused .wrongWidth
  else if i < sp.cap p then .byte sp i
  else .refused .beyondCapacity

/-- What an access of a width at an offset of the window reaches (20_memory.md R71, R74). -/
def locate (p : Params) (width offset : Nat) : Located :=
  if offset < 0x1000 then locateReg width offset
  else if offset < 0x20000 then .refused .reservedOffset
  else if offset < 0x2FFFF then locateByte p width .fld (offset - 0x20000)
  else if offset < 0x40000 then .refused .reservedOffset
  else if offset < 0x60000 then locateByte p width .a0 (offset - 0x40000)
  else if offset < 0x80000 then locateByte p width .a1 (offset - 0x60000)
  else if offset < 0xA0000 then locateByte p width .fbuf (offset - 0x80000)
  else .fault .outsideWindow

/-- The host offset of a register (10_state.md R21). -/
def Reg.offset (r : Reg) : Nat := 8 * Reg.all.idxOf r

/-! ## Registers -/

/-- What the host reads from a register (10_state.md R21 to R44). -/
def State.readReg (s : State) : Reg → RegWord
  | .id => s.par.idValue
  | .ctrl => s.ctrl.toWord
  | .status => s.status
  | .err => errWord s.err
  | .errinfo => s.errinfo
  | .dumplen => s.dumplen.setWidth 64
  | .op => 0
  | .val => s.val
  | .fldlen => s.fldlen.setWidth 64
  | .nxt => s.nextOff.setWidth 64
  | .len0 => s.len0.setWidth 64
  | .len1 => s.len1.setWidth 64
  | .kind0 => BitVec.ofNat 64 (Kind.numberOrNone s.kind0)
  | .kind1 => BitVec.ofNat 64 (Kind.numberOrNone s.kind1)
  | .debsize => s.debsize.setWidth 64
  | .credmax => s.credmax.setWidth 64
  | .credit => s.credit.setWidth 64
  | .codec => s.codec.toWord
  | .fpos => s.fpos.setWidth 64
  | .flen => s.flen.setWidth 64
  | .dpos => s.dpos.setWidth 64

/-- A host write to `LEN[a]`: a legal value is stored and ends the live view, any other is ignored
entirely (10_state.md R32). -/
def State.writeLen (s : State) (a : Arena) (v : RegWord) : State :=
  if v.toNat ≤ s.par.bufCap then (s.setLen a v.toNat).setKind a none else s

/-- A host write to a register other than `OP` (10_state.md R21 to R43). Illegal values and writes to
read-only registers are ignored (93_implementation_defined.md U8). -/
def State.writeReg (s : State) (r : Reg) (v : RegWord) : State :=
  match r with
  | .id => s
  | .ctrl => { s with ctrl := Ctrl.ofWord v }
  | .status => s
  | .err => s.acknowledge
  | .errinfo => s
  | .dumplen => s
  | .op => s
  | .val => { s with val := v }
  | .fldlen => { s with fldlen := v.setWidth 16 }
  | .nxt => s
  | .len0 => s.writeLen .a0 v
  | .len1 => s.writeLen .a1 v
  | .kind0 => s
  | .kind1 => s
  | .debsize =>
    if 1 ≤ v.toNat ∧ v.toNat ≤ s.par.bufCap then { s with debsize := v.setWidth 18 } else s
  | .credmax => { s with credmax := v.setWidth 32 }
  | .credit => s
  | .codec => { s with codec := s.codec.hostWrite v }
  | .fpos => if v.toNat ≤ s.par.fbufCap then { s with fpos := v.setWidth 18 } else s
  | .flen => if v.toNat ≤ s.par.fbufCap then { s with flen := v.setWidth 18 } else s
  | .dpos => if v.toNat ≤ s.par.bufCap then { s with dpos := v.setWidth 18 } else s

/-- A host write to a buffer byte: it is stored, and in an arena it ends the live view (10_state.md R52). -/
def State.hostWriteByte (s : State) (sp : Space) (i : Nat) (b : Byte) : State :=
  match sp with
  | .fld => s.writeBytes .fld i [b]
  | .a0 => (s.writeBytes .a0 i [b]).setKind .a0 none
  | .a1 => (s.writeBytes .a1 i [b]).setKind .a1 none
  | .fbuf => s.writeBytes .fbuf i [b]

/-! ## Operations -/

/-- A host write to `OP` (10_state.md R44, 40_frame.md R140): nothing at all while an error is recorded
(60_exceptions.md R278), `E_ILLOP` for a value that is no operation (30_encoding.md R108), the operation
otherwise. -/
def writeOp (v : RegWord) (s : State) : Host.Outcome State Fault Refusal :=
  if s.errv then .next s
  else
    match decode v with
    | .error _ => .next (s.recordError (v.setWidth 32) .illop 0 0)
    | .ok i => exec i s

/-! ## Reset and instantiation -/

/-- The reset input (70_reset_and_hazards.md R310): every register at its reset value, every buffer byte
unspecified again, so drawn anew (10_state.md R51, 93_implementation_defined.md U1; log 4). The host's later
accesses are not the block's. -/
def State.hardReset (s : State) : State :=
  { State.resetWith s.par with pending := s.pending, reply := s.reply, draw := s.draw + 1 }

/-- An instance with given parameters, after reset; parameters that break the constraints are refused
(93_implementation_defined.md U4, U5; log 18). -/
def instantiate (p : Params) : Host.Outcome State Fault Refusal :=
  if p.legal then .next (State.resetWith p) else .refused .illegalParameters

/-! ## One host access -/

/-- A host read: it answers the value and has no side effect (20_memory.md R80). -/
def serveRead (width offset : Nat) (s : State) : Host.Outcome State Fault Refusal :=
  match locate s.par width offset with
  | .reg r => .next { s with reply := some (s.readReg r) }
  | .byte sp i => .next { s with reply := some ((s.readByte sp i).setWidth 64) }
  | .fault r => .fault r
  | .refused r => .refused r

/-- A host write (20_memory.md R80). -/
def serveWrite (width offset : Nat) (v : RegWord) (s : State) : Host.Outcome State Fault Refusal :=
  match locate s.par width offset with
  | .reg .op => writeOp v s
  | .reg r => .next (s.writeReg r v)
  | .byte sp i => .next (s.hostWriteByte sp i (v.setWidth 8))
  | .fault r => .fault r
  | .refused r => .refused r

/-- One thing the outside world does, done completely (20_memory.md R85). -/
def serve (x : HostAccess) (s : State) : Host.Outcome State Fault Refusal :=
  match x with
  | .read width offset => serveRead width offset s
  | .write width offset v => serveWrite width offset v s
  | .rst => .next s.hardReset

/-- Takes the oldest access from the queue: nothing is returned to the host yet (logs 1, 12). -/
def State.accept (s : State) (rest : List HostAccess) : State :=
  { s with pending := rest, reply := none }

/-- The host write that issues an operation: 64 bits at the offset of `OP` (10_state.md R44). -/
def opWrite (v : RegWord) : HostAccess := .write 64 0x30 v

end Sys2Proof.Machine
end

