-- ==== Sys2Proof/Machine/Step.lean ====
section
/-! DEFINITION. One step of the machine: the oldest host access still to be made is made, completely. The
block acts in no other way (20_memory.md R85, 60_exceptions.md R295). -/

namespace Sys2Proof.Machine

/-- One step. With no access to make, nothing happens (60_exceptions.md R295; log 2). -/
def step (s : State) : Host.Outcome State Fault Refusal :=
  match s.pending with
  | [] => .next s
  | x :: rest => serve x (s.accept rest)

/-- The state in which the next step's access is the host write of an opcode-table row's word to `OP`
(10_state.md R44): that write is put at the head of the queue (log 1). -/
def State.withFetchWord (s : State) (nbits w : Nat) : State :=
  { s with pending := opWrite (tableValue nbits w) :: s.pending }

end Sys2Proof.Machine
end

