-- ==== Sys2Proof/Safety.lean ====
section
/-! DEFINITION. What counts as a safe run, in the terms the claims use: the invariant of the block, what
an operation may change, and runs of host accesses. -/

namespace Sys2Proof.Machine

/-! ## The invariant -/

/-- What holds in every state a legal instance reaches: legal parameters (00_scope.md R7, 30_encoding.md
R114), every register inside the range its rule gives (10_state.md R29, R32, R33, R38 to R40, R43), no
detail without an error (60_exceptions.md R280), a live view only over a command with a signature byte
(40_frame.md R141, R145), and every buffer in canonical form inside its capacity (10_state.md R45 to R47). -/
structure State.Inv (s : State) : Prop where
  par_legal : s.par.legal = true
  len_le : ∀ a, s.len a ≤ s.par.bufCap
  debsize_pos : 1 ≤ s.debsize.toNat
  debsize_le : s.debsize.toNat ≤ s.par.bufCap
  nextOff_le : s.nextOff.toNat ≤ s.par.bufCap
  fpos_le : s.fpos.toNat ≤ s.par.fbufCap
  flen_le : s.flen.toNat ≤ s.par.fbufCap
  dpos_le : s.dpos.toNat ≤ s.par.bufCap
  dumplen_le : s.dumplen.toNat ≤ 256
  clear_of_no_error : s.err = none → s.errinfo = 0 ∧ s.dumplen = 0
  view_nonempty : ∀ a, s.kind a ≠ none → 1 ≤ s.len a
  buf_wf : ∀ sp, (s.buf sp).wf (sp.cap s.par)

/-! ## Frames -/

/-- Every byte of every buffer reads in `t` as in `s`. -/
def SameBytes (s t : State) : Prop := ∀ sp i, t.readByte sp i = s.readByte sp i

/-- Every byte of every buffer reads in `t` as in `s`, but for the `n` bytes of `sp` from index `lo`. -/
def SameBytesBut (s t : State) (sp : Space) (lo n : Nat) : Prop :=
  ∀ sp' i, ¬ (sp' = sp ∧ lo ≤ i ∧ i < lo + n) → t.readByte sp' i = s.readByte sp' i

/-- Every register of `t` but those in the list reads as in `s`, and the parameters and the model's own
fields (the host's queue, its last reply, the free-value counter) are as in `s`. -/
def SameRegsBut (changed : List Reg) (s t : State) : Prop :=
  t.par = s.par ∧ t.pending = s.pending ∧ t.reply = s.reply ∧ t.draw = s.draw ∧
    ∀ r, r ∉ changed → t.readReg r = s.readReg r

/-- `LEN[a]` as a register. -/
def lenReg : Arena → Reg
  | .a0 => .len0
  | .a1 => .len1

/-- `KIND[a]` as a register. -/
def kindReg : Arena → Reg
  | .a0 => .kind0
  | .a1 => .kind1

/-- `t` is `s` with the error registers written and nothing else changed (60_exceptions.md R276). -/
def OnlyErrorChanged (s t : State) : Prop :=
  t = { s with err := t.err, errinfo := t.errinfo, dumplen := t.dumplen }

/-- `s` with an error recorded by the operation `i` and nothing else changed (60_exceptions.md R275);
`dump` is the dump length, 0 but for `CHECK`. -/
def State.raisedBy (s : State) (i : Instr) (e : ErrCode) (info dump : Nat) : State :=
  { s with
    err := some { code := e, opw := encode i }
    errinfo := BitVec.ofNat 64 info
    dumplen := BitVec.ofNat 9 dump }

/-- The tests that open a field operation (41_fixed_fields.md R160, 42_variable_fields.md R192 to R195): it
raises `E_STATE` without a live view, then `E_BOUNDS` where its field or prefix, which ends at `stop`, ends
beyond the command. -/
def TestsItsField (i : Instr) (a : Arena) (stop : Nat) (s : State) : Prop :=
  (s.kind a = none → exec i s = .next (s.raisedBy i .state (if a = .a0 then 0 else 1) 0)) ∧
  (s.kind a ≠ none → s.len a < stop → exec i s = .next (s.raisedBy i .bounds stop 0))

/-- The registers an operation writes when it completes, `SRESET` apart (10_state.md R53); `STATUS` goes with
`CREDIT` (R36). -/
def writtenRegs : Instr → List Reg
  | .nop => []
  | .sreset => []
  | .new a _ => [lenReg a, kindReg a, .nxt]
  | .check a _ => [kindReg a, .dpos]
  | .puta _ _ _ => [.nxt]
  | .geta _ _ _ => [.fldlen, .nxt]
  | .putn _ _ _ => [.nxt]
  | .getn _ _ _ => [.val, .nxt]
  | .putu _ _ _ => [.nxt]
  | .getu _ _ _ => [.val, .nxt]
  | .putt a _ => [lenReg a, .nxt]
  | .gett _ _ => [.fldlen, .nxt]
  | .putb a _ => [lenReg a, .nxt]
  | .getb _ _ => [.fldlen, .nxt]
  | .rlenc a => [lenReg a, .fpos, .codec]
  | .rldec _ => [.flen, .dpos, .codec]
  | .rleos => []
  | .rlinit => [.codec, .fpos, .flen]
  | .crinit => [.credit, .status]
  | .crtake => [.credit, .status]
  | .crgrant => [.credit, .status]

/-- The bytes an operation stores to when it goes from `s` to `t`, if any: the buffer, the first index and the
count (files 40 to 45 of spec/, the lines "Writes"). A resized or appended command ends at its new `LEN[a]`, a
delivered body at its new `FLDLEN` or `FLEN`. -/
def storedRange (i : Instr) (s t : State) : Option (Space × Nat × Nat) :=
  match i with
  | .nop => none
  | .sreset => none
  | .new a k => (s.layout k).map (fun l => (a.space, 0, l.len))
  | .check _ _ => none
  | .puta a off w => some (a.space, off.toNat, w.toNat)
  | .geta _ _ w => some (.fld, 0, w.toNat)
  | .putn a off w => some (a.space, off.toNat, w.toNat)
  | .getn _ _ _ => none
  | .putu a off w => some (a.space, off.toNat, w.toNat)
  | .getu _ _ _ => none
  | .putt a off => some (a.space, off.toNat, t.len a - off.toNat)
  | .gett _ _ => some (.fld, 0, t.fldlen.toNat)
  | .putb a off => some (a.space, off.toNat, t.len a - off.toNat)
  | .getb _ _ => some (.fld, 0, t.fldlen.toNat)
  | .rlenc a => some (a.space, s.len a, t.len a - s.len a)
  | .rldec _ => some (.fbuf, s.flen.toNat, t.flen.toNat - s.flen.toNat)
  | .rleos => none
  | .rlinit => none
  | .crinit => none
  | .crtake => none
  | .crgrant => none

/-! ## Host accesses -/

/-- The host offset of `LEN[a]` (10_state.md R21). -/
def lenOffset : Arena → Nat
  | .a0 => 8 * 10
  | .a1 => 8 * 11

/-- The accesses the spec gives a meaning (20_memory.md R71, R74, 10_state.md R50): a 64-bit access at a
multiple of 8 to one of the 21 registers, or an 8-bit access to a byte that exists. -/
def Meaningful (p : Params) (width offset : Nat) : Prop :=
  (width = 64 ∧ offset % 8 = 0 ∧ offset < 8 * 21) ∨
  (width = 8 ∧ ((0x20000 ≤ offset ∧ offset < 0x20000 + 65535) ∨
    (0x40000 ≤ offset ∧ offset < 0x40000 + p.bufCap) ∨
    (0x60000 ≤ offset ∧ offset < 0x60000 + p.bufCap) ∨
    (0x80000 ≤ offset ∧ offset < 0x80000 + p.fbufCap)))

/-! ## The operation word, in the terms of 30_encoding.md R108 -/

/-- Case (2): the codes the rule calls reserved. -/
def ReservedOpc (opc : Nat) : Prop :=
  (0x02 ≤ opc ∧ opc ≤ 0x07) ∨ (0x0A ≤ opc ∧ opc ≤ 0x0F) ∨ (0x1A ≤ opc ∧ opc ≤ 0x1F) ∨
  (0x24 ≤ opc ∧ opc ≤ 0x27) ∨ (0x2B ≤ opc ∧ opc ≤ 0x3F)

/-- Case (3): a field the format requires to be zero is not zero (30_encoding.md R101). -/
def NonzeroReserved (opc a off w : Nat) : Prop :=
  (opc ∈ [0x00, 0x01, 0x22, 0x23, 0x28, 0x29, 0x2A] ∧ (a ≠ 0 ∨ off ≠ 0 ∨ w ≠ 0)) ∨
  (opc ∈ [0x08, 0x09] ∧ (off ≠ 0 ∨ w / 32 ≠ 0)) ∨
  (opc ∈ [0x16, 0x17, 0x18, 0x19] ∧ w ≠ 0) ∨
  (opc ∈ [0x20, 0x21] ∧ (off ≠ 0 ∨ w ≠ 0))

/-- Case (4): an operand is out of range. -/
def OperandOutOfRange (opc w : Nat) : Prop :=
  (opc ∈ [0x10, 0x11, 0x12, 0x13, 0x14, 0x15] ∧ w = 0) ∨
  (opc ∈ [0x12, 0x13] ∧ 19 < w) ∨
  (opc ∈ [0x14, 0x15] ∧ 4 < w) ∨
  (opc ∈ [0x08, 0x09] ∧ 18 ≤ w % 32 ∧ w % 32 ≤ 30) ∨
  (opc = 0x08 ∧ w % 32 = 31)

/-- A 64-bit value that 30_encoding.md R108 calls illegal. -/
def IllegalValue (v : RegWord) : Prop :=
  let x := v.toNat
  x / 2 ^ 32 ≠ 0 ∨ ReservedOpc (x / 2 ^ 26) ∨
    NonzeroReserved (x / 2 ^ 26) (x / 2 ^ 25 % 2) (x / 2 ^ 8 % 2 ^ 17) (x % 256) ∨
    OperandOutOfRange (x / 2 ^ 26) (x % 256)

/-! ## Length prefixes -/

/-- The three bytes at `off` are the digits of `n` (30_encoding.md R124). -/
def TextPrefix (s : State) (a : Arena) (off n : Nat) : Prop :=
  ∃ x y z : Nat, x < 10 ∧ y < 10 ∧ z < 10 ∧ n = 100 * x + 10 * y + z ∧
    (s.readByte a.space off).toNat = 0x30 + x ∧
    (s.readByte a.space (off + 1)).toNat = 0x30 + y ∧
    (s.readByte a.space (off + 2)).toNat = 0x30 + z

/-- The two bytes at `off` are `n`, big-endian (30_encoding.md R125). -/
def BinaryPrefix (s : State) (a : Arena) (off n : Nat) : Prop :=
  n = 256 * (s.readByte a.space off).toNat + (s.readByte a.space (off + 1)).toNat

/-! ## Sub-records (30_encoding.md R127) -/

/-- A sub-record: its header's fields and its data bytes. -/
structure SubRec where
  eor : Bool
  rep : Bool
  count : Nat
  data : List Byte
deriving DecidableEq, Repr

/-- The count fits 6 bits, and exactly the announced data bytes follow. -/
def SubRec.valid (r : SubRec) : Bool :=
  decide (r.count ≤ 63) && (r.data.length == if r.rep then 1 else r.count)

/-- The bytes of a sub-record. -/
def SubRec.wire (r : SubRec) : List Byte :=
  BitVec.ofNat 8 ((if r.eor then 128 else 0) + (if r.rep then 64 else 0) + r.count) :: r.data

/-- The file bytes a sub-record stands for. -/
def SubRec.value (r : SubRec) : List Byte :=
  if r.rep then List.replicate r.count (r.data.headD 0) else r.data

/-- The bytes of sub-records, back to back (30_encoding.md R126). -/
def wires (rs : List SubRec) : List Byte := rs.flatMap SubRec.wire

/-- The file bytes of sub-records in order. -/
def values (rs : List SubRec) : List Byte := rs.flatMap SubRec.value

/-- Five equal bytes of the chunk begin at index `p`: a run of more than 4 (43_rlc.md R212). -/
def RunOfFive (s : State) (p : Nat) : Prop :=
  p + 5 ≤ s.flen.toNat ∧ ∀ j, j < 5 → s.readByte .fbuf (p + j) = s.readByte .fbuf p

/-- What `RLDEC` leaves after delivering `rs` (43_rlc.md R219): the file bytes appended to `FBUF`, the
cursors advanced, `LASTEOR` as the last of them left it, everything else but the flags of `CODEC` as
before. -/
def Delivered (rs : List SubRec) (s t : State) : Prop :=
  t.readBytes .fbuf s.flen.toNat (values rs).length = values rs ∧
  SameBytesBut s t .fbuf s.flen.toNat (values rs).length ∧
  t.flen.toNat = s.flen.toNat + (values rs).length ∧
  t.dpos.toNat = s.dpos.toNat + (wires rs).length ∧
  t.codec.lasteor = (rs.getLast?.map SubRec.eor).getD s.codec.lasteor ∧
  t.codec.fdone = s.codec.fdone

/-! ## Runs -/

/-- The state after one host access; the same state where the access has no meaning. -/
def served (x : HostAccess) (s : State) : State :=
  match serve x s with
  | .next t => t
  | .fault _ => s
  | .refused _ => s

/-- The access writes the word of one of the operations to `OP`. -/
def issues (is : List Instr) (x : HostAccess) : Bool := is.any (fun i => x == opWrite (encodeOp i))

/-- The access is a `CRTAKE` that succeeds (44_credit.md R242). -/
def takesCredit (x : HostAccess) (s : State) : Bool :=
  issues [.crtake] x && !s.errv && !(served x s).errv

/-- How many `CRTAKE` operations succeed in a run of host accesses. -/
def takes : List HostAccess → State → Nat
  | [], _ => 0
  | x :: xs, s => (if takesCredit x s then 1 else 0) + takes xs (served x s)

end Sys2Proof.Machine
end

