-- ==== Sys2Proof/Certificates/Slice0/Obligations.lean ====
section
/-! DEFINITION. The statements for the provers, family by family. A docstring names the rule of spec/ a
statement formalises. -/

open Sys2Proof Sys2Proof.Machine

/-! ## The operation word (30_encoding.md) -/

/-- Words the spec writes out decode to the operations it writes beside them, one or more of each family,
and one value of each illegal case is rejected under its name (95_test_vectors.md 2.1). -/
def Obligations.WordsWrittenOutInTheSpecDecode : Prop :=
  decode 0x00000000 = .ok .nop ∧
  decode 0x04000000 = .ok .sreset ∧
  decode 0x22000011 = .ok (.new .a1 .aurp) ∧
  decode 0x2600001F = .ok (.check .a1 none) ∧
  decode 0x48002305 = .ok (.putn .a0 35 5) ∧
  decode 0x460002FF = .ok (.geta .a1 2 255) ∧
  decode 0x5FFFFF00 = .ok (.gett .a1 131071) ∧
  decode 0x60000100 = .ok (.putb .a0 1) ∧
  decode 0x86000000 = .ok (.rldec .a1) ∧
  decode 0xA4000000 = .ok .crtake ∧
  decode 0x0000000100000000 = .error .upperBits ∧
  decode 0xAC000000 = .error .reservedOpcode ∧
  decode 0x8A000000 = .error .mustBeZero ∧
  decode 0x48002314 = .error .operandRange

/-- Decoding the encoding of any legal operation gives it back: no operand bit is dropped. -/
def Obligations.DecodeReadsBackEveryEncoding : Prop :=
  ∀ i : Instr, i.wellFormed = true → decode (encodeOp i) = .ok i

/-- A value that decodes is the encoding of the legal operation it decodes to: no two values of `OP` spell
one operation. -/
def Obligations.EveryDecodedValueIsTheEncodingOfItsOperation : Prop :=
  ∀ (v : RegWord) (i : Instr), decode v = .ok i → i.wellFormed = true ∧ v = encodeOp i

/-- A value that decodes selects the row of its operation in the opcode map and no other row (30_encoding.md
R103). -/
def Obligations.DecodedWordSelectsItsRowAlone : Prop :=
  ∀ (v : RegWord) (i : Instr), decode v = .ok i →
    ∀ o : Opcode, (v.setWidth 32 &&& o.mask = o.pattern ↔ o = i.opcode)

/-- 30_encoding.md R108: with no error recorded, a write to `OP` raises `E_ILLOP` and does nothing else for
exactly the values the rule lists; every other value is a legal operation, which runs. -/
def Obligations.IllegalValuesRaiseIllopAndAllOthersRun : Prop :=
  ∀ (v : RegWord) (s : State), s.err = none →
    (IllegalValue v →
      writeOp v s = .next { s with
        err := some { code := .illop, opw := v.setWidth 32 }, errinfo := 0, dumplen := 0 }) ∧
    (¬ IllegalValue v → ∃ i : Instr, i.wellFormed = true ∧ encodeOp i = v ∧ writeOp v s = exec i s)

/-! ## Steps, the host port and the error mechanism -/

/-- A step makes the oldest access of the host's queue, completely, on the state with that access taken, and
changes nothing where the queue is empty (20_memory.md R85, 60_exceptions.md R295). When that access writes the
word of an operation to `OP` and no error is recorded, the step is that operation (10_state.md R44, 40_frame.md
R140). The queue, the reply and the step without an access are the model's choice (logs 1, 2 and 12). -/
def Obligations.StepServesTheOldestAccessAndRunsItsOperation : Prop :=
  (∀ s : State, s.pending = [] → step s = .next s) ∧
  (∀ (s : State) (x : HostAccess) (rest : List HostAccess), s.pending = x :: rest →
    step s = serve x { s with pending := rest, reply := none }) ∧
  (∀ (s : State) (v : RegWord) (rest : List HostAccess) (i : Instr),
    s.pending = .write 64 0x30 v :: rest → s.err = none → decode v = .ok i →
    step s = exec i { s with pending := rest, reply := none })

/-- 60_exceptions.md R278: while an error is recorded a write to `OP` changes nothing, whatever its value. -/
def Obligations.OperationsAreDroppedWhileAnErrorIsRecorded : Prop :=
  ∀ (s : State) (v : RegWord) (rest : List HostAccess),
    s.pending = .write 64 0x30 v :: rest → s.err ≠ none →
    step s = .next { s with pending := rest, reply := none }

/-- 60_exceptions.md R280: any host write to `ERR` clears `ERR`, `ERRINFO` and `DUMPLEN` and nothing else,
`STATUS.ERRV` and `irq` fall, operations run again, and with no error recorded it changes nothing. -/
def Obligations.AcknowledgementClearsTheErrorAndReopensTheBlock : Prop :=
  ∀ (s : State) (v : RegWord), s.Inv →
    ∃ t, serve (.write 64 0x18 v) s = .next t ∧
      t = { s with err := none, errinfo := 0, dumplen := 0 } ∧
      t.readReg .err = 0 ∧ (t.readReg .status).getLsbD 0 = false ∧ t.irq = false ∧
      (∀ i : Instr, i.wellFormed = true → writeOp (encodeOp i) t = exec i t) ∧
      (s.err = none → t = s)

/-- A host read answers a value and changes nothing (20_memory.md R80, 10_state.md R52). The read of a buffer
byte at its offset answers that byte, zero-extended (R71); so one read after another answers the same. -/
def Obligations.HostReadsAnswerTheByteAndChangeNothing : Prop :=
  (∀ (s t : State) (width offset : Nat),
    serve (.read width offset) s = .next t → t = { s with reply := t.reply } ∧ t.reply ≠ none) ∧
  (∀ (s : State) (sp : Space) (i : Nat), s.par.legal = true → i < sp.cap s.par →
    serve (.read 8 (sp.base + i)) s = .next { s with reply := some ((s.readByte sp i).setWidth 64) }) ∧
  (∀ p : Params, Space.base .fld = 0x20000 ∧ Space.base .a0 = 0x40000 ∧ Space.base .a1 = 0x60000 ∧
    Space.base .fbuf = 0x80000 ∧ Space.cap p .fld = 65535 ∧ Space.cap p .a0 = p.bufCap ∧
    Space.cap p .a1 = p.bufCap ∧ Space.cap p .fbuf = p.fbufCap)

/-- The host reads register `i` at offset `8 * i`, in the order of 10_state.md R21, and each register reads as
the value its rule gives: `KIND[a]` as the number of 30_encoding.md R112 or 31, the flags of `CTRL` and `CODEC`
at the bits of R23 and R37, `ID` as the parameter, `OP` as 0, the others as the number they hold (`STATUS` and
`ERR` have statements of their own). -/
def Obligations.RegistersReadTheirFieldsAtEightTimesTheirNumber : Prop :=
  ∀ s : State,
    (∀ p ∈ [(0, Reg.id), (1, .ctrl), (2, .status), (3, .err), (4, .errinfo), (5, .dumplen), (6, .op), (7, .val),
        (8, .fldlen), (9, .nxt), (10, .len0), (11, .len1), (12, .kind0), (13, .kind1), (14, .debsize),
        (15, .credmax), (16, .credit), (17, .codec), (18, .fpos), (19, .flen), (20, .dpos)],
      serve (.read 64 (8 * p.1)) s = .next { s with reply := some (s.readReg p.2) }) ∧
    s.readReg .id = s.par.idValue ∧ s.readReg .errinfo = s.errinfo ∧ s.readReg .op = 0 ∧
    s.readReg .val = s.val ∧
    (∀ p ∈ [(Reg.dumplen, s.dumplen.toNat), (.fldlen, s.fldlen.toNat), (.nxt, s.nextOff.toNat),
        (.len0, s.len .a0), (.len1, s.len .a1), (.debsize, s.debsize.toNat), (.credmax, s.credmax.toNat),
        (.credit, s.credit.toNat), (.fpos, s.fpos.toNat), (.flen, s.flen.toNat), (.dpos, s.dpos.toNat)],
      (s.readReg p.1).toNat = p.2) ∧
    (∀ a : Arena, (s.kind a = none → (s.readReg (kindReg a)).toNat = 31) ∧
      ∀ p ∈ [(0, Kind.ssrm), (1, .ssid), (2, .esid), (3, .sfid), (4, .sfpa), (5, .sfna), (6, .data), (7, .cdt),
          (8, .efid), (9, .efpa), (10, .efna), (11, .cd), (12, .eerp), (13, .nerp), (14, .rtr), (15, .secd),
          (16, .auch), (17, .aurp)],
        s.kind a = some p.2 → (s.readReg (kindReg a)).toNat = p.1) ∧
    ((s.readReg .ctrl).getLsbD 0 = true ↔ s.ctrl.ver = .v2) ∧
    (s.readReg .ctrl).getLsbD 1 = s.ctrl.cmpen ∧ (s.readReg .ctrl).getLsbD 2 = s.ctrl.ie ∧
    (s.readReg .ctrl).toNat < 8 ∧
    (s.readReg .codec).getLsbD 0 = s.codec.feor ∧ (s.readReg .codec).getLsbD 1 = s.codec.lasteor ∧
    (s.readReg .codec).getLsbD 2 = s.codec.fdone ∧ (s.readReg .codec).getLsbD 3 = s.codec.full ∧
    (s.readReg .codec).getLsbD 4 = s.codec.ddone ∧ (s.readReg .codec).toNat < 32

/-- 20_memory.md R74: an access inside the window that the map gives no meaning is refused, read or write;
every access it gives a meaning is answered. -/
def Obligations.AccessesOutsideTheMapAreRefusedAndAllOthersAnswered : Prop :=
  ∀ (s : State) (width offset : Nat) (v : RegWord), s.par.legal = true → offset < 0xA0000 →
    (¬ Meaningful s.par width offset →
      (∃ r, serve (.read width offset) s = .refused r) ∧
      (∃ r, serve (.write width offset v) s = .refused r)) ∧
    (Meaningful s.par width offset →
      (∃ t, serve (.read width offset) s = .next t) ∧
      (∃ t, serve (.write width offset v) s = .next t))

/-- A host write to `LEN[a]` up to `BUF_CAP` stores the value and ends the live view; a larger one is
ignored entirely (10_state.md R32). That the whole written value is compared is read from the rule by
inference (log 8). -/
def Obligations.LengthWritesStoreAndEndTheViewOrAreIgnored : Prop :=
  ∀ (s : State) (a : Arena) (v : RegWord), s.par.legal = true →
    (v.toNat ≤ s.par.bufCap →
      ∃ t, serve (.write 64 (lenOffset a) v) s = .next t ∧ t.len a = v.toNat ∧ t.kind a = none ∧
        SameRegsBut [lenReg a, kindReg a] s t ∧ SameBytes s t) ∧
    (s.par.bufCap < v.toNat → serve (.write 64 (lenOffset a) v) s = .next s)

/-- A host write to a buffer byte stores it and no other byte; in an arena it ends the live view, in `FLD`
and `FBUF` it has no side effect (10_state.md R52). -/
def Obligations.ByteWritesStoreAndEndTheViewOfAnArena : Prop :=
  ∀ (s : State) (sp : Space) (i : Nat) (v : RegWord), s.par.legal = true → i < sp.cap s.par →
    ∃ t, serve (.write 8 (sp.base + i) v) s = .next t ∧
      (t.readByte sp i).toNat = v.toNat % 256 ∧ SameBytesBut s t sp i 1 ∧
      (∀ a : Arena, sp = a.space → t.kind a = none ∧ SameRegsBut [kindReg a] s t) ∧
      ((∀ a : Arena, sp ≠ a.space) → SameRegsBut [] s t)

/-- Host writes of values out of range to `DEBSIZE`, `FPOS`, `FLEN` and `DPOS` and all host writes to the
read-only registers are ignored (10_state.md R21, R33, R38 to R40; 93_implementation_defined.md U8). That the
whole written value is compared is read from the rules by inference (log 8). -/
def Obligations.IllegalRegisterWritesAreIgnored : Prop :=
  ∀ (s : State) (v : RegWord),
    (v.toNat = 0 ∨ s.par.bufCap < v.toNat → serve (.write 64 (8 * 14) v) s = .next s) ∧
    (s.par.fbufCap < v.toNat → serve (.write 64 (8 * 18) v) s = .next s) ∧
    (s.par.fbufCap < v.toNat → serve (.write 64 (8 * 19) v) s = .next s) ∧
    (s.par.bufCap < v.toNat → serve (.write 64 (8 * 20) v) s = .next s) ∧
    (∀ n ∈ [0, 2, 4, 5, 9, 12, 13, 16], serve (.write 64 (8 * n) v) s = .next s)

/-- Host writes of legal values to `VAL`, `FLDLEN`, `DEBSIZE`, `CREDMAX`, `CODEC`, `FPOS`, `FLEN` and `DPOS`
store the bits their rules give and change nothing else (10_state.md R27, R28, R33, R34, R37 to R40; log 8). -/
def Obligations.LegalRegisterWritesStoreTheirLiveField : Prop :=
  ∀ (s : State) (v : RegWord), s.par.legal = true →
    (∃ t, serve (.write 64 (8 * 7) v) s = .next t ∧ t.readReg .val = v ∧
      SameRegsBut [.val] s t ∧ SameBytes s t) ∧
    (∃ t, serve (.write 64 (8 * 8) v) s = .next t ∧ (t.readReg .fldlen).toNat = v.toNat % 2 ^ 16 ∧
      SameRegsBut [.fldlen] s t ∧ SameBytes s t) ∧
    (1 ≤ v.toNat ∧ v.toNat ≤ s.par.bufCap →
      ∃ t, serve (.write 64 (8 * 14) v) s = .next t ∧ t.readReg .debsize = v ∧
        SameRegsBut [.debsize] s t ∧ SameBytes s t) ∧
    (∃ t, serve (.write 64 (8 * 15) v) s = .next t ∧ (t.readReg .credmax).toNat = v.toNat % 2 ^ 32 ∧
      SameRegsBut [.credmax] s t ∧ SameBytes s t) ∧
    (∃ t, serve (.write 64 (8 * 17) v) s = .next t ∧
      (t.readReg .codec).getLsbD 0 = v.getLsbD 0 ∧
      (∀ j, 1 ≤ j → (t.readReg .codec).getLsbD j = (s.readReg .codec).getLsbD j) ∧
      SameRegsBut [.codec] s t ∧ SameBytes s t) ∧
    (v.toNat ≤ s.par.fbufCap →
      (∃ t, serve (.write 64 (8 * 18) v) s = .next t ∧ t.readReg .fpos = v ∧
        SameRegsBut [.fpos] s t ∧ SameBytes s t) ∧
      (∃ t, serve (.write 64 (8 * 19) v) s = .next t ∧ t.readReg .flen = v ∧
        SameRegsBut [.flen] s t ∧ SameBytes s t)) ∧
    (v.toNat ≤ s.par.bufCap →
      ∃ t, serve (.write 64 (8 * 20) v) s = .next t ∧ t.readReg .dpos = v ∧
        SameRegsBut [.dpos] s t ∧ SameBytes s t)

/-- 10_state.md R23: a host write to `CTRL` stores bits 2:0 as `VER`, `CMPEN` and `IE`, the other bits read
as zero, and nothing else changes; after reset it reads 0. -/
def Obligations.CtrlStoresItsThreeFieldsAlone : Prop :=
  State.reset.readReg .ctrl = 0 ∧
  ∀ (s : State) (v : RegWord),
    ∃ t, serve (.write 64 8 v) s = .next t ∧ t.readReg .ctrl = v &&& 7 ∧
      (t.ctrl.ver = .v2 ↔ v.getLsbD 0 = true) ∧ t.ctrl.cmpen = v.getLsbD 1 ∧ t.ctrl.ie = v.getLsbD 2 ∧
      SameRegsBut [.ctrl] s t ∧ SameBytes s t

/-- 10_state.md R36: bit 0 of `STATUS` is 1 when `ERR[7:0]` is not 0, bit 1 when `CREDIT` is 0, bits 63:2
read as zero; after reset it reads 0b10. -/
def Obligations.StatusIsAFunctionOfErrorAndCredit : Prop :=
  (∀ s : State,
    ((s.readReg .status).getLsbD 0 = true ↔ (s.readReg .err).setWidth 8 ≠ 0) ∧
    ((s.readReg .status).getLsbD 1 = true ↔ s.readReg .credit = 0) ∧
    (s.readReg .status).toNat < 4) ∧
  State.reset.readReg .status = 2

/-- 10_state.md R26: `irq = CTRL.IE and STATUS.ERRV`. -/
def Obligations.InterruptIsEnableAndErrorValid : Prop :=
  ∀ s : State, s.irq = ((s.readReg .ctrl).getLsbD 2 && (s.readReg .status).getLsbD 0)

/-- After `rst` every register reads the value of the table of 10_state.md R51, `irq` is low
(70_reset_and_hazards.md R310), and every buffer byte reads as its free value (the form of that value is
the model's choice, log 4). -/
def Obligations.ResetLeavesTheStatedValues : Prop :=
  ∀ s : State, s.par.legal = true →
    ∃ t, serve .rst s = .next t ∧ t.par = s.par ∧ t.irq = false ∧
      t.readReg .id = s.par.idValue ∧ t.readReg .status = 2 ∧
      (t.readReg .kind0).toNat = 31 ∧ (t.readReg .kind1).toNat = 31 ∧
      (t.readReg .debsize).toNat = s.par.bufCap ∧ t.readReg .dpos = 1 ∧
      (∀ r ∈ [Reg.ctrl, .err, .errinfo, .dumplen, .op, .val, .fldlen, .nxt, .len0, .len1, .credmax, .credit,
        .codec, .fpos, .flen], t.readReg r = 0) ∧
      (∀ sp i, t.readByte sp i = Config.powerOnByte t.draw (sp.base + i))

/-- The state after reset, with the parameter values of log 3, meets the invariant. -/
def Obligations.ResetMeetsTheInvariant : Prop := State.reset.Inv

/-- Every step from any state that meets the invariant, reached or not, leads to one that meets it: the
registers stay in their ranges, live views stay over non-empty commands and the buffers stay canonical. -/
def Obligations.EveryStepKeepsTheInvariant : Prop :=
  ∀ s t : State, s.Inv → step s = .next t → t.Inv

/-- Every operation, legal or not, in every state, answers a next state: none faults, is refused or hangs. -/
def Obligations.EveryOperationAnswersANextState : Prop :=
  ∀ (i : Instr) (s : State), ∃ t, exec i s = .next t

/-- 60_exceptions.md R276: an operation that raises has changed only `ERR`, `ERRINFO` and `DUMPLEN`, except
`E_SUBREC` in `RLDEC`, which has delivered exactly the sub-records before the malformed one. -/
def Obligations.ErrorsArePrecise : Prop :=
  ∀ (i : Instr) (s t : State) (r : ErrRecord), s.par.legal = true → s.err = none →
    exec i s = .next t → t.err = some r →
    r.opw = encode i ∧
    (r.code ≠ .subrec → OnlyErrorChanged s t) ∧
    (r.code = .subrec → ∃ a rs, i = .rldec a ∧
      (∀ x ∈ rs, SubRec.valid x = true ∧ x.eor = false) ∧
      s.readBytes a.space s.dpos.toNat (wires rs).length = wires rs ∧
      Delivered rs s t ∧ t.codec.feor = false ∧ t.codec.full = false ∧ t.codec.ddone = s.codec.ddone ∧
      t.errinfo.toNat = t.dpos.toNat ∧
      SameRegsBut [.status, .err, .errinfo, .dumplen, .flen, .dpos, .codec] s t)

/-- What an error records: `ERR` reads as the code number of 60_exceptions.md R271 in bits 7:0, the operation
word in bits 63:32 and zero between (10_state.md R41); `DUMPLEN` is `min(LEN[a], 256)` for an error raised by
`CHECK` and 0 for every other, a malformed `CHECK` word included (10_state.md R43, 60_exceptions.md R275). -/
def Obligations.ErrorsRecordTheirCodeWordAndDumpLength : Prop :=
  (∀ (s : State) (r : ErrRecord), s.err = some r →
    ∀ p ∈ [(1, ErrCode.sig), (2, .len), (3, .term), (4, .charset), (5, .overflow), (6, .field), (7, .bounds),
        (8, .bytecount), (9, .subrec), (10, .credit), (11, .illop), (12, .version), (13, .state)],
      r.code = p.2 → (s.readReg .err).toNat = p.1 + 2 ^ 32 * r.opw.toNat) ∧
  (∀ (i : Instr) (s t : State) (r : ErrRecord), s.err = none → exec i s = .next t → t.err = some r →
    r.opw = encode i ∧
    (∀ a e, i = .check a e →
      t.dumplen.toNat = min (s.len a) 256 ∧ r.code ∈ [ErrCode.sig, .len, .term, .version]) ∧
    ((∀ a e, i ≠ .check a e) → t.dumplen = 0)) ∧
  (∀ (v : RegWord) (s t : State), s.err = none → IllegalValue v → writeOp v s = .next t → t.dumplen = 0)

/-- Which operation writes what, `SRESET` apart. An operation that completes changes no register but those the
summary of 10_state.md R53 names for it (with `CREDIT`, `STATUS` as R36 derives it), and `CHECK` changes `DPOS`
for a Data command only. An operation that raises changes the error registers and `STATUS` alone, `RLDEC` also
what it had delivered. No flag of `CODEC` changes but those the summary names for the operation, and no byte of
any buffer outside the range the operation stores to. -/
def Obligations.OperationsWriteOnlyWhatTheSummaryNames : Prop :=
  ∀ (i : Instr) (s t : State), i ≠ .sreset → exec i s = .next t →
    SameRegsBut ([.status, .err, .errinfo, .dumplen] ++ writtenRegs i) s t ∧
    (s.err = none → t.err = none → SameRegsBut (writtenRegs i) s t) ∧
    (s.err = none → t.err ≠ none → (∀ a, i ≠ .rldec a) →
      SameRegsBut [.status, .err, .errinfo, .dumplen] s t ∧ SameBytes s t) ∧
    (∀ a e, i = .check a e → t.kind a ≠ some .data → t.dpos = s.dpos) ∧
    ((∀ a, i ≠ .rldec a) → i ≠ .rlinit → t.codec = { s.codec with fdone := t.codec.fdone }) ∧
    ((∀ a, i ≠ .rlenc a) → i ≠ .rlinit → t.codec.fdone = s.codec.fdone) ∧
    (storedRange i s t = none → SameBytes s t) ∧
    (∀ sp lo n, storedRange i s t = some (sp, lo, n) →
      (∀ sp' j, sp' ≠ sp → t.readByte sp' j = s.readByte sp' j) ∧
      (s.par.legal = true → SameBytesBut s t sp lo n))

/-- A live view of a kind that was not there before comes from `NEW` or from a `CHECK` alone: no other
operation and no other host access sets `KIND[a]` to a kind (10_state.md R30). -/
def Obligations.LiveViewsComeOnlyFromNewAndCheck : Prop :=
  ∀ (x : HostAccess) (s t : State) (a : Arena) (k : Kind), serve x s = .next t → t.kind a = some k →
    s.kind a ≠ some k →
    ∃ i, x = opWrite (encodeOp i) ∧ s.err = none ∧
      (i = .new a k ∨ i = .check a (some k) ∨ i = .check a none)

/-! ## System operations (45_system.md) -/

/-- 45_system.md R261: `NOP`, the all-zero word, writes nothing and raises nothing. -/
def Obligations.NopChangesNothing : Prop :=
  encode .nop = 0x00000000 ∧ ∀ s : State, exec .nop s = .next s

/-- 45_system.md R262: `SRESET` writes every register to its reset value, keeps every buffer byte, cannot
fail, and does nothing while an error is recorded. -/
def Obligations.SresetRestoresRegistersAndKeepsBytes : Prop :=
  encode .sreset = 0x04000000 ∧
  ∀ s : State, s.par.legal = true →
    (∃ t, exec .sreset s = .next t ∧ SameBytes s t ∧
      t.par = s.par ∧ t.pending = s.pending ∧ t.reply = s.reply ∧
      t.readReg .id = s.readReg .id ∧ t.readReg .status = 2 ∧
      (t.readReg .kind0).toNat = 31 ∧ (t.readReg .kind1).toNat = 31 ∧
      (t.readReg .debsize).toNat = s.par.bufCap ∧ t.readReg .dpos = 1 ∧
      (∀ r ∈ [Reg.ctrl, .err, .errinfo, .dumplen, .op, .val, .fldlen, .nxt, .len0, .len1, .credmax, .credit,
        .codec, .fpos, .flen], t.readReg r = 0)) ∧
    (s.err ≠ none → writeOp (encodeOp .sreset) s = .next s)

/-! ## Frame operations (40_frame.md) -/

/-- 40_frame.md R141: `NEW` lays a fresh command of its kind over the arena (signature, spaces, 0x0D last if
the kind has a terminator) with the length of its descriptor, makes it the live view and sets `NEXT` to 1;
for a kind that does not exist in the current version it raises `E_VERSION` and writes nothing. -/
def Obligations.NewLaysAFreshCommandOrRaisesVersion : Prop :=
  ∀ (a : Arena) (k : Kind) (s : State), s.par.legal = true →
    opcField (encode (.new a k)) = 0x08 ∧
    (∀ l : Layout, s.layout k = some l →
      ∃ t, exec (.new a k) s = .next t ∧
        Config.signatures[k.number]? = some (t.readByte a.space 0) ∧
        (∀ i, 1 ≤ i → i < l.len → ¬ (l.term = true ∧ i = l.len - 1) → t.readByte a.space i = 0x20) ∧
        (l.term = true → t.readByte a.space (l.len - 1) = 0x0D) ∧
        SameBytesBut s t a.space 0 l.len ∧
        t.len a = l.len ∧ t.kind a = some k ∧ t.nextOff.toNat = 1 ∧
        SameRegsBut [lenReg a, kindReg a, .nxt] s t) ∧
    (s.layout k = none → exec (.new a k) s = .next (s.raisedBy (.new a k) .version k.number 0))

/-- `CHECK` accepts a command whose signature, length and terminator are right, for the expected kind and for
`ANY` alike, makes it the live view, sets `DPOS` to 1 for a Data command, and changes nothing else
(40_frame.md R145). -/
def Obligations.CheckAcceptsAWellFramedCommand : Prop :=
  ∀ (a : Arena) (k : Kind) (l : Layout) (s : State) (e : Option Kind), s.par.legal = true →
    e = some k ∨ e = none → s.layout k = some l → 1 ≤ s.len a →
    Config.signatures[k.number]? = some (s.readByte a.space 0) →
    (l.fixed = true → s.len a = l.len) →
    (l.fixed = false → l.len ≤ s.len a ∧ s.len a ≤ s.debsize.toNat) →
    (l.term = true → (s.readByte a.space (s.len a - 1) = 0x0D ∨ s.readByte a.space (s.len a - 1) = 0x8D)) →
    ∃ t, exec (.check a e) s = .next t ∧ t.kind a = some k ∧
      (k = .data → t.dpos = 1) ∧ (k ≠ .data → t.dpos = s.dpos) ∧
      SameRegsBut [kindReg a, .dpos] s t ∧ SameBytes s t

/-- `CHECK` reports the first test that fails, in the order version of the operand, empty buffer, signature,
version of the kind found, length, terminator, each with its detail and the dump length (40_frame.md R145,
60_exceptions.md R274). -/
def Obligations.CheckReportsTheFirstTestThatFails : Prop :=
  ∀ (a : Arena) (e : Option Kind) (s : State), s.par.legal = true →
    let fails := fun (c : ErrCode) (info : Nat) =>
      exec (.check a e) s = .next (s.raisedBy (.check a e) c info (min (s.len a) 256))
    let first := s.readByte a.space 0
    let last := s.readByte a.space (s.len a - 1)
    (∀ k, e = some k → s.layout k = none → fails .version k.number) ∧
    ((∀ k, e = some k → s.layout k ≠ none) → s.len a = 0 → fails .len 0) ∧
    (∀ k, e = some k → s.layout k ≠ none → 1 ≤ s.len a → Config.signatures[k.number]? ≠ some first →
      fails .sig first.toNat) ∧
    (e = none → 1 ≤ s.len a → first ∉ Config.signatures → fails .sig first.toNat) ∧
    (∀ k, e = none → 1 ≤ s.len a → Config.signatures[k.number]? = some first → s.layout k = none →
      fails .version k.number) ∧
    (∀ k l, (e = some k ∨ e = none) → 1 ≤ s.len a → Config.signatures[k.number]? = some first →
      s.layout k = some l →
      ¬ (if l.fixed then s.len a = l.len else l.len ≤ s.len a ∧ s.len a ≤ s.debsize.toNat) →
      fails .len (s.len a)) ∧
    (∀ k l, (e = some k ∨ e = none) → 1 ≤ s.len a → Config.signatures[k.number]? = some first →
      s.layout k = some l →
      (if l.fixed then s.len a = l.len else l.len ≤ s.len a ∧ s.len a ≤ s.debsize.toNat) →
      l.term = true → last ≠ 0x0D → last ≠ 0x8D → fails .term last.toNat)

/-- On a command whose first byte is the signature of `k`, `CHECK a, k` and `CHECK a, ANY` give the same
result but for the recorded word, where `k` exists in the current version (40_frame.md R148). -/
def Obligations.CheckAnyAgreesWithCheckOfTheKindFound : Prop :=
  ∀ (a : Arena) (k : Kind) (s : State), s.par.legal = true → s.err = none → 1 ≤ s.len a →
    s.layout k ≠ none → Config.signatures[k.number]? = some (s.readByte a.space 0) →
    ∃ t, exec (.check a (some k)) s = .next t ∧
      exec (.check a none) s =
        .next { t with err := t.err.map (fun r => { r with opw := encode (.check a none) }) }

/-- A command just laid out by `NEW` passes `CHECK`, both of its kind and of `ANY`, if its length is within
the negotiated ceiling where its kind is variable (40_frame.md R147, R148). -/
def Obligations.FreshCommandPassesItsSeal : Prop :=
  ∀ (a : Arena) (k : Kind) (l : Layout) (s t : State) (e : Option Kind), s.par.legal = true → s.err = none →
    s.layout k = some l → (l.fixed = true ∨ l.len ≤ s.debsize.toNat) → e = some k ∨ e = none →
    exec (.new a k) s = .next t →
    ∃ u, exec (.check a e) t = .next u ∧ u.err = none ∧ u.kind a = some k ∧ SameBytes t u

/-! ## Fixed-width fields (41_fixed_fields.md) -/

/-- 41_fixed_fields.md R161: exactly 43 byte values are accepted after upper-casing and 69 before it; the
other 187 are rejected; upper-casing moves 0x61 to 0x7A to 0x41 to 0x5A and nothing else. -/
def Obligations.CharacterRuleAcceptsExactlyTheStatedBytes : Prop :=
  (∀ b : Byte, okChar b = true ↔
    (0x41 ≤ b.toNat ∧ b.toNat ≤ 0x5A) ∨ (0x30 ≤ b.toNat ∧ b.toNat ≤ 0x39) ∨
      b.toNat ∈ [0x20, 0x2F, 0x2D, 0x2E, 0x26, 0x28, 0x29]) ∧
  (∀ b : Byte, (norm b).toNat =
    if 0x61 ≤ b.toNat ∧ b.toNat ≤ 0x7A then b.toNat - 0x20 else b.toNat) ∧
  ((List.range 256).countP (fun n => okChar (BitVec.ofNat 8 n)) = 43) ∧
  ((List.range 256).countP (fun n => acceptable (BitVec.ofNat 8 n)) = 69) ∧
  ((List.range 256).countP (fun n => !acceptable (BitVec.ofNat 8 n)) = 187)

/-- 41_fixed_fields.md R163: `PUTA` stores the staged bytes upper-cased and padded with spaces; a value longer
than the field raises `E_OVERFLOW`, then the first byte outside the character set `E_CHARSET`. -/
def Obligations.PutaStoresThePaddedUpperCaseValueOrRaises : Prop :=
  ∀ (a : Arena) (off : BitVec 17) (w : BitVec 8) (s : State),
    opcField (encode (.puta a off w)) = 0x10 ∧
    TestsItsField (.puta a off w) a (off.toNat + w.toNat) s ∧
    (s.kind a ≠ none → off.toNat + w.toNat ≤ s.len a →
      (s.fldlen.toNat ≤ w.toNat → (∀ i, i < s.fldlen.toNat → okChar (norm (s.readByte .fld i)) = true) →
        ∃ t, exec (.puta a off w) s = .next t ∧
          (∀ i, i < s.fldlen.toNat → t.readByte a.space (off.toNat + i) = norm (s.readByte .fld i)) ∧
          (∀ i, s.fldlen.toNat ≤ i → i < w.toNat → t.readByte a.space (off.toNat + i) = 0x20) ∧
          SameBytesBut s t a.space off.toNat w.toNat ∧
          t.nextOff.toNat = off.toNat + w.toNat ∧ SameRegsBut [.nxt] s t) ∧
      (w.toNat < s.fldlen.toNat →
        exec (.puta a off w) s = .next (s.raisedBy (.puta a off w) .overflow s.fldlen.toNat 0)) ∧
      (∀ i, s.fldlen.toNat ≤ w.toNat → i < s.fldlen.toNat → okChar (norm (s.readByte .fld i)) = false →
        (∀ j, j < i → okChar (norm (s.readByte .fld j)) = true) →
        exec (.puta a off w) s = .next (s.raisedBy (.puta a off w) .charset i 0)))

/-- 41_fixed_fields.md R164: `GETA` delivers the field's bytes upper-cased in `FLD`, and `FLDLEN` is the width;
the first byte outside the character set raises `E_CHARSET` with its arena index. -/
def Obligations.GetaDeliversTheUpperCaseFieldOrRaises : Prop :=
  ∀ (a : Arena) (off : BitVec 17) (w : BitVec 8) (s : State),
    opcField (encode (.geta a off w)) = 0x11 ∧
    TestsItsField (.geta a off w) a (off.toNat + w.toNat) s ∧
    (s.kind a ≠ none → off.toNat + w.toNat ≤ s.len a →
      ((∀ i, i < w.toNat → okChar (norm (s.readByte a.space (off.toNat + i))) = true) →
        ∃ t, exec (.geta a off w) s = .next t ∧
          (∀ i, i < w.toNat → t.readByte .fld i = norm (s.readByte a.space (off.toNat + i))) ∧
          SameBytesBut s t .fld 0 w.toNat ∧
          t.fldlen.toNat = w.toNat ∧ t.nextOff.toNat = off.toNat + w.toNat ∧
          SameRegsBut [.fldlen, .nxt] s t) ∧
      (∀ i, i < w.toNat → okChar (norm (s.readByte a.space (off.toNat + i))) = false →
        (∀ j, j < i → okChar (norm (s.readByte a.space (off.toNat + j))) = true) →
        exec (.geta a off w) s = .next (s.raisedBy (.geta a off w) .charset (off.toNat + i) 0)))

/-- 41_fixed_fields.md R166: `PUTN` stores the decimal digits of `VAL`, the most significant first,
zero-padded; a value of more digits than the width raises `E_OVERFLOW`. -/
def Obligations.PutnStoresTheDigitsOfValOrRaises : Prop :=
  ∀ (a : Arena) (off : BitVec 17) (w : BitVec 8) (s : State),
    opcField (encode (.putn a off w)) = 0x12 ∧
    TestsItsField (.putn a off w) a (off.toNat + w.toNat) s ∧
    (s.kind a ≠ none → off.toNat + w.toNat ≤ s.len a →
      (s.val.toNat < 10 ^ w.toNat →
        ∃ t, exec (.putn a off w) s = .next t ∧
          (∀ i, i < w.toNat → (t.readByte a.space (off.toNat + i)).toNat =
            0x30 + s.val.toNat / 10 ^ (w.toNat - 1 - i) % 10) ∧
          SameBytesBut s t a.space off.toNat w.toNat ∧
          t.nextOff.toNat = off.toNat + w.toNat ∧ SameRegsBut [.nxt] s t) ∧
      (10 ^ w.toNat ≤ s.val.toNat →
        exec (.putn a off w) s = .next (s.raisedBy (.putn a off w) .overflow w.toNat 0)))

/-- 41_fixed_fields.md R167: `GETN` of a field of at most 19 digits delivers its value in `VAL`; the first
byte that is no digit raises `E_FIELD` with its arena index. The value is said digit by digit: each byte is
the digit of `VAL` at its place. -/
def Obligations.GetnDeliversTheDecimalValueOrRaises : Prop :=
  ∀ (a : Arena) (off : BitVec 17) (w : BitVec 8) (s : State),
    opcField (encode (.getn a off w)) = 0x13 ∧
    TestsItsField (.getn a off w) a (off.toNat + w.toNat) s ∧
    (s.kind a ≠ none → off.toNat + w.toNat ≤ s.len a → w.toNat ≤ 19 →
      ((∀ i, i < w.toNat → isDigit (s.readByte a.space (off.toNat + i)) = true) →
        ∃ t, exec (.getn a off w) s = .next t ∧
          t.val.toNat < 10 ^ w.toNat ∧
          (∀ i, i < w.toNat → (s.readByte a.space (off.toNat + i)).toNat =
            0x30 + t.val.toNat / 10 ^ (w.toNat - 1 - i) % 10) ∧
          t.nextOff.toNat = off.toNat + w.toNat ∧ SameRegsBut [.val, .nxt] s t ∧ SameBytes s t) ∧
      (∀ i, i < w.toNat → isDigit (s.readByte a.space (off.toNat + i)) = false →
        (∀ j, j < i → isDigit (s.readByte a.space (off.toNat + j)) = true) →
        exec (.getn a off w) s = .next (s.raisedBy (.getn a off w) .field (off.toNat + i) 0)))

/-- 41_fixed_fields.md R169: `PUTU` stores `VAL` big-endian in the field; a value that needs more bytes raises
`E_OVERFLOW`. -/
def Obligations.PutuStoresValBigEndianOrRaises : Prop :=
  ∀ (a : Arena) (off : BitVec 17) (w : BitVec 8) (s : State),
    opcField (encode (.putu a off w)) = 0x14 ∧
    TestsItsField (.putu a off w) a (off.toNat + w.toNat) s ∧
    (s.kind a ≠ none → off.toNat + w.toNat ≤ s.len a →
      (s.val.toNat < 256 ^ w.toNat →
        ∃ t, exec (.putu a off w) s = .next t ∧
          (∀ i, i < w.toNat → (t.readByte a.space (off.toNat + i)).toNat =
            s.val.toNat / 256 ^ (w.toNat - 1 - i) % 256) ∧
          SameBytesBut s t a.space off.toNat w.toNat ∧
          t.nextOff.toNat = off.toNat + w.toNat ∧ SameRegsBut [.nxt] s t) ∧
      (256 ^ w.toNat ≤ s.val.toNat →
        exec (.putu a off w) s = .next (s.raisedBy (.putu a off w) .overflow w.toNat 0)))

/-- 41_fixed_fields.md R170: `GETU` of a field of at most 4 bytes delivers its big-endian value in `VAL`,
zero-extended, and cannot fail on any data. -/
def Obligations.GetuDeliversTheBigEndianValue : Prop :=
  ∀ (a : Arena) (off : BitVec 17) (w : BitVec 8) (s : State),
    opcField (encode (.getu a off w)) = 0x15 ∧
    TestsItsField (.getu a off w) a (off.toNat + w.toNat) s ∧
    (s.kind a ≠ none → off.toNat + w.toNat ≤ s.len a → w.toNat ≤ 4 →
      ∃ t, exec (.getu a off w) s = .next t ∧
        t.val.toNat < 256 ^ w.toNat ∧
        (∀ i, i < w.toNat → (s.readByte a.space (off.toNat + i)).toNat =
          t.val.toNat / 256 ^ (w.toNat - 1 - i) % 256) ∧
        t.nextOff.toNat = off.toNat + w.toNat ∧ SameRegsBut [.val, .nxt] s t ∧ SameBytes s t)

/-- A number written by `PUTN` or `PUTU` is read back by `GETN` or `GETU` at the same place, whatever the host
did to `VAL` between them (41_fixed_fields.md R171). -/
def Obligations.NumbersReadBackAsWritten : Prop :=
  ∀ (a : Arena) (off : BitVec 17) (w : BitVec 8) (x : BitVec 64) (s t : State), s.err = none → t.err = none →
    ((Instr.putn a off w).wellFormed = true → exec (.putn a off w) s = .next t →
      ∃ u, exec (.getn a off w) { t with val := x } = .next u ∧ u.err = none ∧ u.val = s.val) ∧
    ((Instr.putu a off w).wellFormed = true → exec (.putu a off w) s = .next t →
      ∃ u, exec (.getu a off w) { t with val := x } = .next u ∧ u.err = none ∧ u.val = s.val)

/-- A numeric field read by `GETN` and written back by `PUTN` keeps its bytes (41_fixed_fields.md R171). -/
def Obligations.NumericFieldWrittenBackKeepsItsBytes : Prop :=
  ∀ (a : Arena) (off : BitVec 17) (w : BitVec 8) (s t : State), (Instr.getn a off w).wellFormed = true →
    s.err = none → exec (.getn a off w) s = .next t → t.err = none →
    ∃ u, exec (.putn a off w) t = .next u ∧ u.err = none ∧ SameBytes s u

/-! ## Variable-length fields (42_variable_fields.md) -/

/-- 42_variable_fields.md R192: `PUTT` replaces the body of the text field at `off` by the staged bytes: new
prefix, new body, tail displaced, `LEN[a]` adjusted, bytes before the field and beyond the new length kept;
or it raises, before anything is written, the first of `E_FIELD`, `E_BOUNDS` (old body), `E_OVERFLOW`,
`E_BOUNDS` (new length). -/
def Obligations.PuttInstallsTheTextOrRaises : Prop :=
  ∀ (a : Arena) (off : BitVec 17) (s : State),
    opcField (encode (.putt a off)) = 0x16 ∧
    TestsItsField (.putt a off) a (off.toNat + 3) s ∧
    (s.kind a ≠ none → off.toNat + 3 ≤ s.len a →
      (∀ old, TextPrefix s a off.toNat old → off.toNat + 3 + old ≤ s.len a → s.fldlen.toNat ≤ 999 →
        s.len a - old + s.fldlen.toNat ≤ s.debsize.toNat →
        ∃ t, exec (.putt a off) s = .next t ∧
          t.len a = s.len a - old + s.fldlen.toNat ∧
          TextPrefix t a off.toNat s.fldlen.toNat ∧
          (∀ j, j < s.fldlen.toNat → t.readByte a.space (off.toNat + 3 + j) = s.readByte .fld j) ∧
          (∀ j, off.toNat + 3 + old + j < s.len a →
            t.readByte a.space (off.toNat + 3 + s.fldlen.toNat + j) =
              s.readByte a.space (off.toNat + 3 + old + j)) ∧
          SameBytesBut s t a.space off.toNat (s.len a - old + s.fldlen.toNat - off.toNat) ∧
          t.nextOff.toNat = off.toNat + 3 + s.fldlen.toNat ∧ SameRegsBut [lenReg a, .nxt] s t) ∧
      (∀ j, j < 3 → isDigit (s.readByte a.space (off.toNat + j)) = false →
        (∀ m, m < j → isDigit (s.readByte a.space (off.toNat + m)) = true) →
        exec (.putt a off) s = .next (s.raisedBy (.putt a off) .field (off.toNat + j) 0)) ∧
      (∀ old, TextPrefix s a off.toNat old → s.len a < off.toNat + 3 + old →
        exec (.putt a off) s = .next (s.raisedBy (.putt a off) .bounds (off.toNat + 3 + old) 0)) ∧
      (∀ old, TextPrefix s a off.toNat old → off.toNat + 3 + old ≤ s.len a → 999 < s.fldlen.toNat →
        exec (.putt a off) s = .next (s.raisedBy (.putt a off) .overflow s.fldlen.toNat 0)) ∧
      (∀ old, TextPrefix s a off.toNat old → off.toNat + 3 + old ≤ s.len a → s.fldlen.toNat ≤ 999 →
        s.debsize.toNat < s.len a - old + s.fldlen.toNat →
        exec (.putt a off) s =
          .next (s.raisedBy (.putt a off) .bounds (s.len a - old + s.fldlen.toNat) 0)))

/-- 42_variable_fields.md R193: `GETT` delivers the body of the text field at `off` in `FLD` byte for byte,
its length in `FLDLEN`, and the offset after it in `NEXT`; or raises `E_FIELD` or `E_BOUNDS`. -/
def Obligations.GettDeliversTheTextOrRaises : Prop :=
  ∀ (a : Arena) (off : BitVec 17) (s : State),
    opcField (encode (.gett a off)) = 0x17 ∧
    TestsItsField (.gett a off) a (off.toNat + 3) s ∧
    (s.kind a ≠ none → off.toNat + 3 ≤ s.len a →
      (∀ n, TextPrefix s a off.toNat n → off.toNat + 3 + n ≤ s.len a →
        ∃ t, exec (.gett a off) s = .next t ∧
          (∀ j, j < n → t.readByte .fld j = s.readByte a.space (off.toNat + 3 + j)) ∧
          SameBytesBut s t .fld 0 n ∧ t.fldlen.toNat = n ∧
          t.nextOff.toNat = off.toNat + 3 + n ∧ SameRegsBut [.fldlen, .nxt] s t) ∧
      (∀ j, j < 3 → isDigit (s.readByte a.space (off.toNat + j)) = false →
        (∀ m, m < j → isDigit (s.readByte a.space (off.toNat + m)) = true) →
        exec (.gett a off) s = .next (s.raisedBy (.gett a off) .field (off.toNat + j) 0)) ∧
      (∀ n, TextPrefix s a off.toNat n → s.len a < off.toNat + 3 + n →
        exec (.gett a off) s = .next (s.raisedBy (.gett a off) .bounds (off.toNat + 3 + n) 0)))

/-- 42_variable_fields.md R194: `PUTB` replaces the body of the binary field at `off` by the staged bytes, as
`PUTT` does for text; or raises `E_BOUNDS` for the old body or for the new length. -/
def Obligations.PutbInstallsTheBytesOrRaises : Prop :=
  ∀ (a : Arena) (off : BitVec 17) (s : State),
    opcField (encode (.putb a off)) = 0x18 ∧
    TestsItsField (.putb a off) a (off.toNat + 2) s ∧
    (s.kind a ≠ none → off.toNat + 2 ≤ s.len a → ∀ old, BinaryPrefix s a off.toNat old →
      (off.toNat + 2 + old ≤ s.len a → s.len a - old + s.fldlen.toNat ≤ s.debsize.toNat →
        ∃ t, exec (.putb a off) s = .next t ∧
          t.len a = s.len a - old + s.fldlen.toNat ∧
          BinaryPrefix t a off.toNat s.fldlen.toNat ∧
          (∀ j, j < s.fldlen.toNat → t.readByte a.space (off.toNat + 2 + j) = s.readByte .fld j) ∧
          (∀ j, off.toNat + 2 + old + j < s.len a →
            t.readByte a.space (off.toNat + 2 + s.fldlen.toNat + j) =
              s.readByte a.space (off.toNat + 2 + old + j)) ∧
          SameBytesBut s t a.space off.toNat (s.len a - old + s.fldlen.toNat - off.toNat) ∧
          t.nextOff.toNat = off.toNat + 2 + s.fldlen.toNat ∧ SameRegsBut [lenReg a, .nxt] s t) ∧
      (s.len a < off.toNat + 2 + old →
        exec (.putb a off) s = .next (s.raisedBy (.putb a off) .bounds (off.toNat + 2 + old) 0)) ∧
      (off.toNat + 2 + old ≤ s.len a → s.debsize.toNat < s.len a - old + s.fldlen.toNat →
        exec (.putb a off) s =
          .next (s.raisedBy (.putb a off) .bounds (s.len a - old + s.fldlen.toNat) 0)))

/-- 42_variable_fields.md R195: `GETB` delivers the body of the binary field at `off` in `FLD`; or raises
`E_BOUNDS`. -/
def Obligations.GetbDeliversTheBytesOrRaises : Prop :=
  ∀ (a : Arena) (off : BitVec 17) (s : State),
    opcField (encode (.getb a off)) = 0x19 ∧
    TestsItsField (.getb a off) a (off.toNat + 2) s ∧
    (s.kind a ≠ none → off.toNat + 2 ≤ s.len a → ∀ n, BinaryPrefix s a off.toNat n →
      (off.toNat + 2 + n ≤ s.len a →
        ∃ t, exec (.getb a off) s = .next t ∧
          (∀ j, j < n → t.readByte .fld j = s.readByte a.space (off.toNat + 2 + j)) ∧
          SameBytesBut s t .fld 0 n ∧ t.fldlen.toNat = n ∧
          t.nextOff.toNat = off.toNat + 2 + n ∧ SameRegsBut [.fldlen, .nxt] s t) ∧
      (s.len a < off.toNat + 2 + n →
        exec (.getb a off) s = .next (s.raisedBy (.getb a off) .bounds (off.toNat + 2 + n) 0)))

/-- A body installed by `PUTT` or `PUTB` is read back by `GETT` or `GETB`, whatever stands in `FLD` and
`FLDLEN` by then (42_variable_fields.md R198). -/
def Obligations.BodiesReadBackAsInstalled : Prop :=
  ∀ (a : Arena) (off : BitVec 17) (m : Memory) (x : BitVec 16) (s t : State), s.err = none → t.err = none →
    (exec (.putt a off) s = .next t →
      ∃ u, exec (.gett a off) { t with fld := m, fldlen := x } = .next u ∧ u.err = none ∧
        u.fldlen = s.fldlen ∧ ∀ j, j < s.fldlen.toNat → u.readByte .fld j = s.readByte .fld j) ∧
    (exec (.putb a off) s = .next t →
      ∃ u, exec (.getb a off) { t with fld := m, fldlen := x } = .next u ∧ u.err = none ∧
        u.fldlen = s.fldlen ∧ ∀ j, j < s.fldlen.toNat → u.readByte .fld j = s.readByte .fld j)

/-- The terminator travels with the tail: where the variable field ends before the last byte of the command,
`PUTT` and `PUTB` keep the last byte last (42_variable_fields.md R197). -/
def Obligations.LastByteTravelsWithTheTail : Prop :=
  ∀ (a : Arena) (off : BitVec 17) (old : Nat) (s t : State), s.err = none → t.err = none →
    (TextPrefix s a off.toNat old → off.toNat + 3 + old < s.len a → exec (.putt a off) s = .next t →
      t.readByte a.space (t.len a - 1) = s.readByte a.space (s.len a - 1)) ∧
    (BinaryPrefix s a off.toNat old → off.toNat + 2 + old < s.len a → exec (.putb a off) s = .next t →
      t.readByte a.space (t.len a - 1) = s.readByte a.space (s.len a - 1))

/-! ## The run-length codec (43_rlc.md) -/

/-- 43_rlc.md R211: `RLINIT` clears the five flags of `CODEC`, `FPOS` and `FLEN`, changes nothing else and
cannot fail. -/
def Obligations.RlinitStartsAStream : Prop :=
  encode .rlinit = 0x8C000000 ∧
  ∀ s : State, ∃ t, exec .rlinit s = .next t ∧ t.readReg .codec = 0 ∧ t.readReg .fpos = 0 ∧
    t.readReg .flen = 0 ∧ SameRegsBut [.codec, .fpos, .flen] s t ∧ SameBytes s t

/-- `RLENC` appends complete sub-records that stand for the bytes of the chunk it takes, within the ceiling,
cut greedily from left to right. A sub-record is a repeat exactly when compression is on and a run of more
than 4 begins at its place; a repeat takes the whole run, up to 63 bytes; a literal takes no byte at which
such a run begins, but its first, and ends only at 63 bytes, at the chunk's end, at the ceiling or where such
a run begins. The end-of-record bit is on the sub-record that takes the chunk's last byte, if the chunk ends a
record; a chunk of no bytes that ends a record gives one empty sub-record. `RLENC` stops only when the chunk
is taken or no room for 2 bytes is left, and changes `FPOS`, `FDONE` and `LEN[a]` besides. It raises `E_STATE`
when the arena's live view is no Data command, then `E_BOUNDS` when `FPOS` is above `FLEN` (43_rlc.md R213). -/
def Obligations.RlencAppendsSubRecordsForTheChunkItTakes : Prop :=
  ∀ (a : Arena) (s : State), opcField (encode (.rlenc a)) = 0x20 ∧
    (s.kind a ≠ some .data →
      exec (.rlenc a) s = .next (s.raisedBy (.rlenc a) .state (if a = .a0 then 0 else 1) 0)) ∧
    (s.kind a = some .data → s.flen.toNat < s.fpos.toNat →
      exec (.rlenc a) s = .next (s.raisedBy (.rlenc a) .bounds s.fpos.toNat 0)) ∧
    (s.kind a = some .data → s.fpos.toNat ≤ s.flen.toNat →
    ∃ (t : State) (rs : List SubRec), exec (.rlenc a) s = .next t ∧
      s.len a ≤ t.len a ∧ t.len a ≤ max (s.len a) s.debsize.toNat ∧
      t.readBytes a.space (s.len a) (t.len a - s.len a) = wires rs ∧
      SameBytesBut s t a.space (s.len a) (t.len a - s.len a) ∧
      s.fpos.toNat ≤ t.fpos.toNat ∧ t.fpos.toNat ≤ s.flen.toNat ∧
      values rs = s.readBytes .fbuf s.fpos.toNat (t.fpos.toNat - s.fpos.toNat) ∧
      (∀ pre r post, rs = pre ++ r :: post →
        let p := s.fpos.toNat + (values pre).length
        let q := p + r.count
        SubRec.valid r = true ∧ (r.count = 0 → s.flen = 0 ∧ s.codec.feor = true) ∧
        r.eor = (s.codec.feor && decide (q = s.flen.toNat)) ∧
        (r.rep = true ↔ s.ctrl.cmpen = true ∧ RunOfFive s p) ∧
        (r.rep = true →
          r.count = 63 ∨ q = s.flen.toNat ∨ s.readByte .fbuf q ≠ s.readByte .fbuf p) ∧
        (r.rep = false →
          (∀ j, p < j → j < q → s.ctrl.cmpen = true → ¬ RunOfFive s j) ∧
          (r.count = 63 ∨ q = s.flen.toNat ∨ s.len a + (wires (pre ++ [r])).length = s.debsize.toNat ∨
            (s.ctrl.cmpen = true ∧ RunOfFive s q)))) ∧
      (t.fpos.toNat < s.flen.toNat → s.debsize.toNat < t.len a + 2) ∧
      (s.flen = 0 → s.codec.feor = true → s.len a + 1 ≤ s.debsize.toNat → rs.length = 1) ∧
      t.codec = { s.codec with
        fdone := decide (t.fpos = s.flen) && (!s.codec.feor || rs.any SubRec.eor) } ∧
      SameRegsBut [lenReg a, .fpos, .codec] s t)

/-- A chunk that is one run of 5 to 63 equal bytes is appended as the two bytes header and value when
compression is on, with the end-of-record bit when the chunk ends a record (43_rlc.md R213). -/
def Obligations.RlencCollapsesOneRunToTwoBytes : Prop :=
  ∀ (a : Arena) (b : Byte) (r : Nat) (s : State), s.kind a = some .data → s.ctrl.cmpen = true →
    5 ≤ r → r ≤ 63 → s.flen.toNat = s.fpos.toNat + r → s.len a + 2 ≤ s.debsize.toNat →
    (∀ j, j < r → s.readByte .fbuf (s.fpos.toNat + j) = b) →
    ∃ t, exec (.rlenc a) s = .next t ∧ t.len a = s.len a + 2 ∧
      (t.readByte a.space (s.len a)).toNat = 0x40 + r + (if s.codec.feor then 0x80 else 0) ∧
      t.readByte a.space (s.len a + 1) = b ∧ t.fpos = s.flen ∧ t.codec.fdone = true

/-- What `RLENC` appended in one call, `RLDEC` from the same place on expands to exactly the bytes taken from
the chunk, with `FEOR` set exactly when the chunk was sent to its end with `FEOR` set (43_rlc.md R225 for one
command). -/
def Obligations.RldecRestoresWhatRlencAppended : Prop :=
  ∀ (a : Arena) (s t : State), s.par.legal = true → s.err = none → s.kind a = some .data →
    1 ≤ s.len a → s.fpos.toNat ≤ s.flen.toNat → s.flen.toNat ≤ s.par.fbufCap →
    exec (.rlenc a) s = .next t →
    ∃ u, exec (.rldec a) { t with dpos := BitVec.ofNat 18 (s.len a), flen := 0 } = .next u ∧
      u.err = none ∧ u.flen.toNat = t.fpos.toNat - s.fpos.toNat ∧
      (∀ j, j < u.flen.toNat → u.readByte .fbuf j = s.readByte .fbuf (s.fpos.toNat + j)) ∧
      u.dpos.toNat = t.len a ∧ u.codec.ddone = true ∧
      u.codec.feor = (s.codec.feor && t.codec.fdone)

/-- 43_rlc.md R219: `RLDEC` delivers the sub-records from `DPOS` on, in order; it stops at the end of the
command, after the first with the end-of-record bit, before the first that `FBUF` cannot take, or with
`E_SUBREC` at the first that announces more data than the command holds. It raises `E_STATE` when the arena's
live view is no Data command, then `E_BOUNDS` when `DPOS` is outside `1 .. LEN[a]`. -/
def Obligations.RldecDeliversSubRecordsUpToItsStop : Prop :=
  ∀ (a : Arena) (s : State) (rs : List SubRec) (rest : List Byte), s.par.legal = true →
    opcField (encode (.rldec a)) = 0x21 ∧
    (s.kind a ≠ some .data →
      exec (.rldec a) s = .next (s.raisedBy (.rldec a) .state (if a = .a0 then 0 else 1) 0)) ∧
    (s.kind a = some .data → (s.dpos.toNat = 0 ∨ s.len a < s.dpos.toNat) →
      exec (.rldec a) s = .next (s.raisedBy (.rldec a) .bounds s.dpos.toNat 0)) ∧
    (s.kind a = some .data → 1 ≤ s.dpos.toNat → s.dpos.toNat ≤ s.len a →
      s.flen.toNat + (values rs).length ≤ s.par.fbufCap →
      (∀ r ∈ rs, SubRec.valid r = true ∧ r.eor = false) →
      s.readBytes a.space s.dpos.toNat (s.len a - s.dpos.toNat) = wires rs ++ rest →
      let changed := [Reg.flen, .dpos, .codec]
      (rest = [] →
        ∃ t, exec (.rldec a) s = .next t ∧ Delivered rs s t ∧ SameRegsBut changed s t ∧
          t.codec.feor = false ∧ t.codec.full = false ∧ t.codec.ddone = true) ∧
      (∀ r more, rest = SubRec.wire r ++ more → SubRec.valid r = true → r.eor = true →
        s.flen.toNat + (values rs).length + r.count ≤ s.par.fbufCap →
        ∃ t, exec (.rldec a) s = .next t ∧ Delivered (rs ++ [r]) s t ∧ SameRegsBut changed s t ∧
          t.codec.feor = true ∧ t.codec.full = false ∧ t.codec.ddone = more.isEmpty) ∧
      (∀ r more, rest = SubRec.wire r ++ more → SubRec.valid r = true →
        s.par.fbufCap < s.flen.toNat + (values rs).length + r.count →
        ∃ t, exec (.rldec a) s = .next t ∧ Delivered rs s t ∧ SameRegsBut changed s t ∧
          t.codec.feor = false ∧ t.codec.full = true ∧ t.codec.ddone = false) ∧
      (∀ h more, rest = h :: more →
        more.length < (if h.getLsbD 6 then 1 else h.toNat % 64) →
        ∃ t, exec (.rldec a) s = .next (t.raisedBy (.rldec a) .subrec t.dpos.toNat 0) ∧
          Delivered rs s t ∧ SameRegsBut changed s t ∧
          t.codec.feor = false ∧ t.codec.full = false ∧ t.codec.ddone = s.codec.ddone))

/-- 43_rlc.md R224: `RLEOS` passes and changes nothing when the last sub-record had its end-of-record bit,
and raises `E_BYTECOUNT` otherwise. -/
def Obligations.RleosTestsTheLastEndOfRecordBit : Prop :=
  encode .rleos = 0x88000000 ∧
  ∀ s : State,
    (s.codec.lasteor = true → exec .rleos s = .next s) ∧
    (s.codec.lasteor = false → exec .rleos s = .next (s.raisedBy .rleos .bytecount 0 0))

/-! ## The credit counter (44_credit.md) -/

/-- 44_credit.md R241: `CRINIT` loads `CREDIT` from `CREDMAX`, which sets `STATUS.CZ` exactly when the new
value is 0, and cannot fail. -/
def Obligations.CrinitLoadsTheWindow : Prop :=
  encode .crinit = 0xA0000000 ∧
  ∀ s : State, ∃ t, exec .crinit s = .next t ∧ t.readReg .credit = s.readReg .credmax ∧
    ((t.readReg .status).getLsbD 1 = true ↔ t.readReg .credit = 0) ∧
    (t.readReg .status).getLsbD 0 = (s.readReg .status).getLsbD 0 ∧
    SameRegsBut [.credit, .status] s t ∧ SameBytes s t

/-- 44_credit.md R242: `CRTAKE` lowers a positive `CREDIT` by 1, and `STATUS.CZ` is set exactly when the new
value is 0; at 0 it raises `E_CREDIT` and `CREDIT` stays 0. -/
def Obligations.CrtakeTakesOneCreditOrRaises : Prop :=
  encode .crtake = 0xA4000000 ∧
  ∀ s : State,
    (0 < s.credit.toNat → ∃ t, exec .crtake s = .next t ∧ t.credit.toNat = s.credit.toNat - 1 ∧
      ((t.readReg .status).getLsbD 1 = true ↔ s.credit.toNat = 1) ∧
      (t.readReg .status).getLsbD 0 = (s.readReg .status).getLsbD 0 ∧
      SameRegsBut [.credit, .status] s t ∧ SameBytes s t) ∧
    (s.credit.toNat = 0 → exec .crtake s = .next (s.raisedBy .crtake .credit 0 0))

/-- 44_credit.md R243: `CRGRANT` reloads `CREDIT` from `CREDMAX` when it is 0, and raises `E_CREDIT` with the
remaining credit otherwise. -/
def Obligations.CrgrantReopensAUsedUpWindowOrRaises : Prop :=
  encode .crgrant = 0xA8000000 ∧
  ∀ s : State,
    (s.credit.toNat = 0 → ∃ t, exec .crgrant s = .next t ∧ t.readReg .credit = s.readReg .credmax ∧
      ((t.readReg .status).getLsbD 1 = true ↔ t.readReg .credit = 0) ∧
      (t.readReg .status).getLsbD 0 = (s.readReg .status).getLsbD 0 ∧
      SameRegsBut [.credit, .status] s t ∧ SameBytes s t) ∧
    (s.credit.toNat ≠ 0 → exec .crgrant s = .next (s.raisedBy .crgrant .credit s.credit.toNat 0))

/-- 44_credit.md R244: in any run of host accesses after a load, up to the next `CRINIT` or `CRGRANT`, at most
as many `CRTAKE` operations succeed as `CREDMAX` held at the load. -/
def Obligations.NoMoreTakesSucceedThanTheLoadedWindow : Prop :=
  ∀ (i : Instr) (s t : State) (xs : List HostAccess), i = .crinit ∨ i = .crgrant → s.err = none →
    exec i s = .next t → t.err = none → (∀ x ∈ xs, issues [.crinit, .crgrant] x = false) →
    takes xs t ≤ s.credmax.toNat

/-- No operation but the three of the credit unit and `SRESET` reads or writes `CREDIT` or `CREDMAX`: run with
other values of them it does the same and leaves them alone (44_credit.md R245). -/
def Obligations.CreditIsApartFromTheOtherUnits : Prop :=
  ∀ (i : Instr) (s t : State) (c m : BitVec 32), i ∉ [.crinit, .crtake, .crgrant, .sreset] →
    exec i s = .next t →
    t.credit = s.credit ∧ t.credmax = s.credmax ∧
    exec i { s with credit := c, credmax := m } = .next { t with credit := c, credmax := m }

/-- No operation but `NEW` and `CHECK` depends on `CTRL.VER`, and none but `SRESET` writes `CTRL` (10_state.md
R24, R53). -/
def Obligations.VersionIsReadByNewAndCheckAlone : Prop :=
  ∀ (i : Instr) (s t : State) (v : Version), i ≠ .sreset → exec i s = .next t →
    t.ctrl = s.ctrl ∧
    ((∀ a k, i ≠ .new a k) → (∀ a e, i ≠ .check a e) →
      exec i { s with ctrl := { s.ctrl with ver := v } } = .next { t with ctrl := { t.ctrl with ver := v } })
end

