-- ==== Sys2Proof/Laws/Decode.lean ====
section
/-! SUPPORT. The laws of the operation word: each field of an assembled word reads back, and the numbers of
arenas, kinds and opcodes name what they number. -/

namespace Sys2Proof

theorem opcField_assemble (o : Opcode) (a : BitVec 1) (off : BitVec 17) (w : BitVec 8) :
    opcField (assemble o a off w) = o.code := by
  unfold assemble opcField
  generalize o.code = c
  apply BitVec.eq_of_getLsbD_eq
  intro i hi
  interval_cases i <;> simp

theorem aField_assemble (o : Opcode) (a : BitVec 1) (off : BitVec 17) (w : BitVec 8) :
    aField (assemble o a off w) = a := by
  unfold assemble aField
  generalize o.code = c
  apply BitVec.eq_of_getLsbD_eq
  intro i hi
  interval_cases i
  simp

theorem offField_assemble (o : Opcode) (a : BitVec 1) (off : BitVec 17) (w : BitVec 8) :
    offField (assemble o a off w) = off := by
  unfold assemble offField
  generalize o.code = c
  apply BitVec.eq_of_getLsbD_eq
  intro i hi
  interval_cases i <;> simp

theorem wField_assemble (o : Opcode) (a : BitVec 1) (off : BitVec 17) (w : BitVec 8) :
    wField (assemble o a off w) = w := by
  unfold assemble wField
  generalize o.code = c
  apply BitVec.eq_of_getLsbD_eq
  intro i hi
  interval_cases i <;> simp

/-- The bits a row fixes, by format: `opc` everywhere, and the fields the format requires to be zero. -/
theorem assemble_and_mask (o : Opcode) (a : BitVec 1) (off : BitVec 17) (w : BitVec 8) :
    assemble o a off w &&& 0xFC000000 = o.code.setWidth 32 <<< 26 ∧
    assemble o a off 0 &&& 0xFC0000FF = o.code.setWidth 32 <<< 26 ∧
    assemble o a 0 0 &&& 0xFDFFFFFF = o.code.setWidth 32 <<< 26 := by
  unfold assemble
  generalize o.code = c
  refine ⟨?_, ?_, ?_⟩ <;>
  · apply BitVec.eq_of_getLsbD_eq
    intro i hi
    interval_cases i <;> simp

@[simp] theorem Arena.ofBit_bit (a : Arena) : Arena.ofBit a.bit = a := by cases a <;> rfl

@[simp] theorem Arena.bit_ofBit (b : BitVec 1) : (Arena.ofBit b).bit = b := by
  revert b; decide

@[simp] theorem Opcode.ofCode_code (o : Opcode) : Opcode.ofCode o.code = some o := by cases o <;> decide

@[simp] theorem Kind.ofNumber_number (k : Kind) : Kind.ofNumber k.number = some k := by cases k <;> rfl

theorem Kind.number_lt (k : Kind) : k.number < 18 := by cases k <;> decide

end Sys2Proof
end

