-- ==== Sys2Proof/Laws/State.lean ====
section
/-! SUPPORT. The small lemmas of the named state updates: what each leaves in every field, so that no
later proof unfolds an update. -/

namespace Sys2Proof.Machine

/-! ## `State.writeBytes` -/

@[simp] theorem State.writeBytes_par (s : State) (sp : Space) (lo : Nat) (bs : List Byte) : (s.writeBytes sp lo bs).par = s.par := by cases sp <;> rfl
@[simp] theorem State.writeBytes_ctrl (s : State) (sp : Space) (lo : Nat) (bs : List Byte) : (s.writeBytes sp lo bs).ctrl = s.ctrl := by cases sp <;> rfl
@[simp] theorem State.writeBytes_err (s : State) (sp : Space) (lo : Nat) (bs : List Byte) : (s.writeBytes sp lo bs).err = s.err := by cases sp <;> rfl
@[simp] theorem State.writeBytes_errinfo (s : State) (sp : Space) (lo : Nat) (bs : List Byte) : (s.writeBytes sp lo bs).errinfo = s.errinfo := by cases sp <;> rfl
@[simp] theorem State.writeBytes_dumplen (s : State) (sp : Space) (lo : Nat) (bs : List Byte) : (s.writeBytes sp lo bs).dumplen = s.dumplen := by cases sp <;> rfl
@[simp] theorem State.writeBytes_val (s : State) (sp : Space) (lo : Nat) (bs : List Byte) : (s.writeBytes sp lo bs).val = s.val := by cases sp <;> rfl
@[simp] theorem State.writeBytes_fldlen (s : State) (sp : Space) (lo : Nat) (bs : List Byte) : (s.writeBytes sp lo bs).fldlen = s.fldlen := by cases sp <;> rfl
@[simp] theorem State.writeBytes_nextOff (s : State) (sp : Space) (lo : Nat) (bs : List Byte) : (s.writeBytes sp lo bs).nextOff = s.nextOff := by cases sp <;> rfl
@[simp] theorem State.writeBytes_len0 (s : State) (sp : Space) (lo : Nat) (bs : List Byte) : (s.writeBytes sp lo bs).len0 = s.len0 := by cases sp <;> rfl
@[simp] theorem State.writeBytes_len1 (s : State) (sp : Space) (lo : Nat) (bs : List Byte) : (s.writeBytes sp lo bs).len1 = s.len1 := by cases sp <;> rfl
@[simp] theorem State.writeBytes_kind0 (s : State) (sp : Space) (lo : Nat) (bs : List Byte) : (s.writeBytes sp lo bs).kind0 = s.kind0 := by cases sp <;> rfl
@[simp] theorem State.writeBytes_kind1 (s : State) (sp : Space) (lo : Nat) (bs : List Byte) : (s.writeBytes sp lo bs).kind1 = s.kind1 := by cases sp <;> rfl
@[simp] theorem State.writeBytes_debsize (s : State) (sp : Space) (lo : Nat) (bs : List Byte) : (s.writeBytes sp lo bs).debsize = s.debsize := by cases sp <;> rfl
@[simp] theorem State.writeBytes_credmax (s : State) (sp : Space) (lo : Nat) (bs : List Byte) : (s.writeBytes sp lo bs).credmax = s.credmax := by cases sp <;> rfl
@[simp] theorem State.writeBytes_credit (s : State) (sp : Space) (lo : Nat) (bs : List Byte) : (s.writeBytes sp lo bs).credit = s.credit := by cases sp <;> rfl
@[simp] theorem State.writeBytes_codec (s : State) (sp : Space) (lo : Nat) (bs : List Byte) : (s.writeBytes sp lo bs).codec = s.codec := by cases sp <;> rfl
@[simp] theorem State.writeBytes_fpos (s : State) (sp : Space) (lo : Nat) (bs : List Byte) : (s.writeBytes sp lo bs).fpos = s.fpos := by cases sp <;> rfl
@[simp] theorem State.writeBytes_flen (s : State) (sp : Space) (lo : Nat) (bs : List Byte) : (s.writeBytes sp lo bs).flen = s.flen := by cases sp <;> rfl
@[simp] theorem State.writeBytes_dpos (s : State) (sp : Space) (lo : Nat) (bs : List Byte) : (s.writeBytes sp lo bs).dpos = s.dpos := by cases sp <;> rfl
@[simp] theorem State.writeBytes_pending (s : State) (sp : Space) (lo : Nat) (bs : List Byte) : (s.writeBytes sp lo bs).pending = s.pending := by cases sp <;> rfl
@[simp] theorem State.writeBytes_reply (s : State) (sp : Space) (lo : Nat) (bs : List Byte) : (s.writeBytes sp lo bs).reply = s.reply := by cases sp <;> rfl
@[simp] theorem State.writeBytes_draw (s : State) (sp : Space) (lo : Nat) (bs : List Byte) : (s.writeBytes sp lo bs).draw = s.draw := by cases sp <;> rfl

@[simp] theorem State.writeBytes_len (s : State) (sp : Space) (lo : Nat) (bs : List Byte) (b : Arena) : (s.writeBytes sp lo bs).len b = s.len b := by cases sp <;> cases b <;> rfl
@[simp] theorem State.writeBytes_kind (s : State) (sp : Space) (lo : Nat) (bs : List Byte) (b : Arena) : (s.writeBytes sp lo bs).kind b = s.kind b := by cases sp <;> cases b <;> rfl

/-! ## `State.setLen` -/

@[simp] theorem State.setLen_par (s : State) (a : Arena) (n : Nat) : (s.setLen a n).par = s.par := by cases a <;> rfl
@[simp] theorem State.setLen_ctrl (s : State) (a : Arena) (n : Nat) : (s.setLen a n).ctrl = s.ctrl := by cases a <;> rfl
@[simp] theorem State.setLen_err (s : State) (a : Arena) (n : Nat) : (s.setLen a n).err = s.err := by cases a <;> rfl
@[simp] theorem State.setLen_errinfo (s : State) (a : Arena) (n : Nat) : (s.setLen a n).errinfo = s.errinfo := by cases a <;> rfl
@[simp] theorem State.setLen_dumplen (s : State) (a : Arena) (n : Nat) : (s.setLen a n).dumplen = s.dumplen := by cases a <;> rfl
@[simp] theorem State.setLen_val (s : State) (a : Arena) (n : Nat) : (s.setLen a n).val = s.val := by cases a <;> rfl
@[simp] theorem State.setLen_fldlen (s : State) (a : Arena) (n : Nat) : (s.setLen a n).fldlen = s.fldlen := by cases a <;> rfl
@[simp] theorem State.setLen_nextOff (s : State) (a : Arena) (n : Nat) : (s.setLen a n).nextOff = s.nextOff := by cases a <;> rfl
@[simp] theorem State.setLen_kind0 (s : State) (a : Arena) (n : Nat) : (s.setLen a n).kind0 = s.kind0 := by cases a <;> rfl
@[simp] theorem State.setLen_kind1 (s : State) (a : Arena) (n : Nat) : (s.setLen a n).kind1 = s.kind1 := by cases a <;> rfl
@[simp] theorem State.setLen_debsize (s : State) (a : Arena) (n : Nat) : (s.setLen a n).debsize = s.debsize := by cases a <;> rfl
@[simp] theorem State.setLen_credmax (s : State) (a : Arena) (n : Nat) : (s.setLen a n).credmax = s.credmax := by cases a <;> rfl
@[simp] theorem State.setLen_credit (s : State) (a : Arena) (n : Nat) : (s.setLen a n).credit = s.credit := by cases a <;> rfl
@[simp] theorem State.setLen_codec (s : State) (a : Arena) (n : Nat) : (s.setLen a n).codec = s.codec := by cases a <;> rfl
@[simp] theorem State.setLen_fpos (s : State) (a : Arena) (n : Nat) : (s.setLen a n).fpos = s.fpos := by cases a <;> rfl
@[simp] theorem State.setLen_flen (s : State) (a : Arena) (n : Nat) : (s.setLen a n).flen = s.flen := by cases a <;> rfl
@[simp] theorem State.setLen_dpos (s : State) (a : Arena) (n : Nat) : (s.setLen a n).dpos = s.dpos := by cases a <;> rfl
@[simp] theorem State.setLen_a0 (s : State) (a : Arena) (n : Nat) : (s.setLen a n).a0 = s.a0 := by cases a <;> rfl
@[simp] theorem State.setLen_a1 (s : State) (a : Arena) (n : Nat) : (s.setLen a n).a1 = s.a1 := by cases a <;> rfl
@[simp] theorem State.setLen_fld (s : State) (a : Arena) (n : Nat) : (s.setLen a n).fld = s.fld := by cases a <;> rfl
@[simp] theorem State.setLen_fbuf (s : State) (a : Arena) (n : Nat) : (s.setLen a n).fbuf = s.fbuf := by cases a <;> rfl
@[simp] theorem State.setLen_pending (s : State) (a : Arena) (n : Nat) : (s.setLen a n).pending = s.pending := by cases a <;> rfl
@[simp] theorem State.setLen_reply (s : State) (a : Arena) (n : Nat) : (s.setLen a n).reply = s.reply := by cases a <;> rfl
@[simp] theorem State.setLen_draw (s : State) (a : Arena) (n : Nat) : (s.setLen a n).draw = s.draw := by cases a <;> rfl

@[simp] theorem State.setLen_kind (s : State) (a : Arena) (n : Nat) (b : Arena) : (s.setLen a n).kind b = s.kind b := by cases a <;> cases b <;> rfl
@[simp] theorem State.setLen_buf (s : State) (a : Arena) (n : Nat) (q : Space) : (s.setLen a n).buf q = s.buf q := by cases a <;> cases q <;> rfl

/-! ## `State.setKind` -/

@[simp] theorem State.setKind_par (s : State) (a : Arena) (k : Option Kind) : (s.setKind a k).par = s.par := by cases a <;> rfl
@[simp] theorem State.setKind_ctrl (s : State) (a : Arena) (k : Option Kind) : (s.setKind a k).ctrl = s.ctrl := by cases a <;> rfl
@[simp] theorem State.setKind_err (s : State) (a : Arena) (k : Option Kind) : (s.setKind a k).err = s.err := by cases a <;> rfl
@[simp] theorem State.setKind_errinfo (s : State) (a : Arena) (k : Option Kind) : (s.setKind a k).errinfo = s.errinfo := by cases a <;> rfl
@[simp] theorem State.setKind_dumplen (s : State) (a : Arena) (k : Option Kind) : (s.setKind a k).dumplen = s.dumplen := by cases a <;> rfl
@[simp] theorem State.setKind_val (s : State) (a : Arena) (k : Option Kind) : (s.setKind a k).val = s.val := by cases a <;> rfl
@[simp] theorem State.setKind_fldlen (s : State) (a : Arena) (k : Option Kind) : (s.setKind a k).fldlen = s.fldlen := by cases a <;> rfl
@[simp] theorem State.setKind_nextOff (s : State) (a : Arena) (k : Option Kind) : (s.setKind a k).nextOff = s.nextOff := by cases a <;> rfl
@[simp] theorem State.setKind_len0 (s : State) (a : Arena) (k : Option Kind) : (s.setKind a k).len0 = s.len0 := by cases a <;> rfl
@[simp] theorem State.setKind_len1 (s : State) (a : Arena) (k : Option Kind) : (s.setKind a k).len1 = s.len1 := by cases a <;> rfl
@[simp] theorem State.setKind_debsize (s : State) (a : Arena) (k : Option Kind) : (s.setKind a k).debsize = s.debsize := by cases a <;> rfl
@[simp] theorem State.setKind_credmax (s : State) (a : Arena) (k : Option Kind) : (s.setKind a k).credmax = s.credmax := by cases a <;> rfl
@[simp] theorem State.setKind_credit (s : State) (a : Arena) (k : Option Kind) : (s.setKind a k).credit = s.credit := by cases a <;> rfl
@[simp] theorem State.setKind_codec (s : State) (a : Arena) (k : Option Kind) : (s.setKind a k).codec = s.codec := by cases a <;> rfl
@[simp] theorem State.setKind_fpos (s : State) (a : Arena) (k : Option Kind) : (s.setKind a k).fpos = s.fpos := by cases a <;> rfl
@[simp] theorem State.setKind_flen (s : State) (a : Arena) (k : Option Kind) : (s.setKind a k).flen = s.flen := by cases a <;> rfl
@[simp] theorem State.setKind_dpos (s : State) (a : Arena) (k : Option Kind) : (s.setKind a k).dpos = s.dpos := by cases a <;> rfl
@[simp] theorem State.setKind_a0 (s : State) (a : Arena) (k : Option Kind) : (s.setKind a k).a0 = s.a0 := by cases a <;> rfl
@[simp] theorem State.setKind_a1 (s : State) (a : Arena) (k : Option Kind) : (s.setKind a k).a1 = s.a1 := by cases a <;> rfl
@[simp] theorem State.setKind_fld (s : State) (a : Arena) (k : Option Kind) : (s.setKind a k).fld = s.fld := by cases a <;> rfl
@[simp] theorem State.setKind_fbuf (s : State) (a : Arena) (k : Option Kind) : (s.setKind a k).fbuf = s.fbuf := by cases a <;> rfl
@[simp] theorem State.setKind_pending (s : State) (a : Arena) (k : Option Kind) : (s.setKind a k).pending = s.pending := by cases a <;> rfl
@[simp] theorem State.setKind_reply (s : State) (a : Arena) (k : Option Kind) : (s.setKind a k).reply = s.reply := by cases a <;> rfl
@[simp] theorem State.setKind_draw (s : State) (a : Arena) (k : Option Kind) : (s.setKind a k).draw = s.draw := by cases a <;> rfl

@[simp] theorem State.setKind_len (s : State) (a : Arena) (k : Option Kind) (b : Arena) : (s.setKind a k).len b = s.len b := by cases a <;> cases b <;> rfl
@[simp] theorem State.setKind_buf (s : State) (a : Arena) (k : Option Kind) (q : Space) : (s.setKind a k).buf q = s.buf q := by cases a <;> cases q <;> rfl

/-! ## `State.setNext` -/

@[simp] theorem State.setNext_par (s : State) (n : Nat) : (s.setNext n).par = s.par := rfl
@[simp] theorem State.setNext_ctrl (s : State) (n : Nat) : (s.setNext n).ctrl = s.ctrl := rfl
@[simp] theorem State.setNext_err (s : State) (n : Nat) : (s.setNext n).err = s.err := rfl
@[simp] theorem State.setNext_errinfo (s : State) (n : Nat) : (s.setNext n).errinfo = s.errinfo := rfl
@[simp] theorem State.setNext_dumplen (s : State) (n : Nat) : (s.setNext n).dumplen = s.dumplen := rfl
@[simp] theorem State.setNext_val (s : State) (n : Nat) : (s.setNext n).val = s.val := rfl
@[simp] theorem State.setNext_fldlen (s : State) (n : Nat) : (s.setNext n).fldlen = s.fldlen := rfl
@[simp] theorem State.setNext_len0 (s : State) (n : Nat) : (s.setNext n).len0 = s.len0 := rfl
@[simp] theorem State.setNext_len1 (s : State) (n : Nat) : (s.setNext n).len1 = s.len1 := rfl
@[simp] theorem State.setNext_kind0 (s : State) (n : Nat) : (s.setNext n).kind0 = s.kind0 := rfl
@[simp] theorem State.setNext_kind1 (s : State) (n : Nat) : (s.setNext n).kind1 = s.kind1 := rfl
@[simp] theorem State.setNext_debsize (s : State) (n : Nat) : (s.setNext n).debsize = s.debsize := rfl
@[simp] theorem State.setNext_credmax (s : State) (n : Nat) : (s.setNext n).credmax = s.credmax := rfl
@[simp] theorem State.setNext_credit (s : State) (n : Nat) : (s.setNext n).credit = s.credit := rfl
@[simp] theorem State.setNext_codec (s : State) (n : Nat) : (s.setNext n).codec = s.codec := rfl
@[simp] theorem State.setNext_fpos (s : State) (n : Nat) : (s.setNext n).fpos = s.fpos := rfl
@[simp] theorem State.setNext_flen (s : State) (n : Nat) : (s.setNext n).flen = s.flen := rfl
@[simp] theorem State.setNext_dpos (s : State) (n : Nat) : (s.setNext n).dpos = s.dpos := rfl
@[simp] theorem State.setNext_a0 (s : State) (n : Nat) : (s.setNext n).a0 = s.a0 := rfl
@[simp] theorem State.setNext_a1 (s : State) (n : Nat) : (s.setNext n).a1 = s.a1 := rfl
@[simp] theorem State.setNext_fld (s : State) (n : Nat) : (s.setNext n).fld = s.fld := rfl
@[simp] theorem State.setNext_fbuf (s : State) (n : Nat) : (s.setNext n).fbuf = s.fbuf := rfl
@[simp] theorem State.setNext_pending (s : State) (n : Nat) : (s.setNext n).pending = s.pending := rfl
@[simp] theorem State.setNext_reply (s : State) (n : Nat) : (s.setNext n).reply = s.reply := rfl
@[simp] theorem State.setNext_draw (s : State) (n : Nat) : (s.setNext n).draw = s.draw := rfl
@[simp] theorem State.setNext_nextOff (s : State) (n : Nat) : (s.setNext n).nextOff = BitVec.ofNat 18 n := rfl

@[simp] theorem State.setNext_len (s : State) (n : Nat) (b : Arena) : (s.setNext n).len b = s.len b := by cases b <;> rfl
@[simp] theorem State.setNext_kind (s : State) (n : Nat) (b : Arena) : (s.setNext n).kind b = s.kind b := by cases b <;> rfl
@[simp] theorem State.setNext_buf (s : State) (n : Nat) (q : Space) : (s.setNext n).buf q = s.buf q := by cases q <;> rfl

/-! ## `State.recordError` -/

@[simp] theorem State.recordError_par (s : State) (opw : Word) (e : ErrCode) (info dump : Nat) : (s.recordError opw e info dump).par = s.par := rfl
@[simp] theorem State.recordError_ctrl (s : State) (opw : Word) (e : ErrCode) (info dump : Nat) : (s.recordError opw e info dump).ctrl = s.ctrl := rfl
@[simp] theorem State.recordError_val (s : State) (opw : Word) (e : ErrCode) (info dump : Nat) : (s.recordError opw e info dump).val = s.val := rfl
@[simp] theorem State.recordError_fldlen (s : State) (opw : Word) (e : ErrCode) (info dump : Nat) : (s.recordError opw e info dump).fldlen = s.fldlen := rfl
@[simp] theorem State.recordError_nextOff (s : State) (opw : Word) (e : ErrCode) (info dump : Nat) : (s.recordError opw e info dump).nextOff = s.nextOff := rfl
@[simp] theorem State.recordError_len0 (s : State) (opw : Word) (e : ErrCode) (info dump : Nat) : (s.recordError opw e info dump).len0 = s.len0 := rfl
@[simp] theorem State.recordError_len1 (s : State) (opw : Word) (e : ErrCode) (info dump : Nat) : (s.recordError opw e info dump).len1 = s.len1 := rfl
@[simp] theorem State.recordError_kind0 (s : State) (opw : Word) (e : ErrCode) (info dump : Nat) : (s.recordError opw e info dump).kind0 = s.kind0 := rfl
@[simp] theorem State.recordError_kind1 (s : State) (opw : Word) (e : ErrCode) (info dump : Nat) : (s.recordError opw e info dump).kind1 = s.kind1 := rfl
@[simp] theorem State.recordError_debsize (s : State) (opw : Word) (e : ErrCode) (info dump : Nat) : (s.recordError opw e info dump).debsize = s.debsize := rfl
@[simp] theorem State.recordError_credmax (s : State) (opw : Word) (e : ErrCode) (info dump : Nat) : (s.recordError opw e info dump).credmax = s.credmax := rfl
@[simp] theorem State.recordError_credit (s : State) (opw : Word) (e : ErrCode) (info dump : Nat) : (s.recordError opw e info dump).credit = s.credit := rfl
@[simp] theorem State.recordError_codec (s : State) (opw : Word) (e : ErrCode) (info dump : Nat) : (s.recordError opw e info dump).codec = s.codec := rfl
@[simp] theorem State.recordError_fpos (s : State) (opw : Word) (e : ErrCode) (info dump : Nat) : (s.recordError opw e info dump).fpos = s.fpos := rfl
@[simp] theorem State.recordError_flen (s : State) (opw : Word) (e : ErrCode) (info dump : Nat) : (s.recordError opw e info dump).flen = s.flen := rfl
@[simp] theorem State.recordError_dpos (s : State) (opw : Word) (e : ErrCode) (info dump : Nat) : (s.recordError opw e info dump).dpos = s.dpos := rfl
@[simp] theorem State.recordError_a0 (s : State) (opw : Word) (e : ErrCode) (info dump : Nat) : (s.recordError opw e info dump).a0 = s.a0 := rfl
@[simp] theorem State.recordError_a1 (s : State) (opw : Word) (e : ErrCode) (info dump : Nat) : (s.recordError opw e info dump).a1 = s.a1 := rfl
@[simp] theorem State.recordError_fld (s : State) (opw : Word) (e : ErrCode) (info dump : Nat) : (s.recordError opw e info dump).fld = s.fld := rfl
@[simp] theorem State.recordError_fbuf (s : State) (opw : Word) (e : ErrCode) (info dump : Nat) : (s.recordError opw e info dump).fbuf = s.fbuf := rfl
@[simp] theorem State.recordError_pending (s : State) (opw : Word) (e : ErrCode) (info dump : Nat) : (s.recordError opw e info dump).pending = s.pending := rfl
@[simp] theorem State.recordError_reply (s : State) (opw : Word) (e : ErrCode) (info dump : Nat) : (s.recordError opw e info dump).reply = s.reply := rfl
@[simp] theorem State.recordError_draw (s : State) (opw : Word) (e : ErrCode) (info dump : Nat) : (s.recordError opw e info dump).draw = s.draw := rfl
@[simp] theorem State.recordError_err (s : State) (opw : Word) (e : ErrCode) (info dump : Nat) :
    (s.recordError opw e info dump).err = some { code := e, opw := opw } := rfl
@[simp] theorem State.recordError_errinfo (s : State) (opw : Word) (e : ErrCode) (info dump : Nat) :
    (s.recordError opw e info dump).errinfo = BitVec.ofNat 64 info := rfl
@[simp] theorem State.recordError_dumplen (s : State) (opw : Word) (e : ErrCode) (info dump : Nat) :
    (s.recordError opw e info dump).dumplen = BitVec.ofNat 9 dump := rfl

@[simp] theorem State.recordError_len (s : State) (opw : Word) (e : ErrCode) (info dump : Nat) (b : Arena) : (s.recordError opw e info dump).len b = s.len b := by cases b <;> rfl
@[simp] theorem State.recordError_kind (s : State) (opw : Word) (e : ErrCode) (info dump : Nat) (b : Arena) : (s.recordError opw e info dump).kind b = s.kind b := by cases b <;> rfl
@[simp] theorem State.recordError_buf (s : State) (opw : Word) (e : ErrCode) (info dump : Nat) (q : Space) : (s.recordError opw e info dump).buf q = s.buf q := by cases q <;> rfl

/-! ## `State.acknowledge` -/

@[simp] theorem State.acknowledge_par (s : State) : (s.acknowledge).par = s.par := rfl
@[simp] theorem State.acknowledge_ctrl (s : State) : (s.acknowledge).ctrl = s.ctrl := rfl
@[simp] theorem State.acknowledge_val (s : State) : (s.acknowledge).val = s.val := rfl
@[simp] theorem State.acknowledge_fldlen (s : State) : (s.acknowledge).fldlen = s.fldlen := rfl
@[simp] theorem State.acknowledge_nextOff (s : State) : (s.acknowledge).nextOff = s.nextOff := rfl
@[simp] theorem State.acknowledge_len0 (s : State) : (s.acknowledge).len0 = s.len0 := rfl
@[simp] theorem State.acknowledge_len1 (s : State) : (s.acknowledge).len1 = s.len1 := rfl
@[simp] theorem State.acknowledge_kind0 (s : State) : (s.acknowledge).kind0 = s.kind0 := rfl
@[simp] theorem State.acknowledge_kind1 (s : State) : (s.acknowledge).kind1 = s.kind1 := rfl
@[simp] theorem State.acknowledge_debsize (s : State) : (s.acknowledge).debsize = s.debsize := rfl
@[simp] theorem State.acknowledge_credmax (s : State) : (s.acknowledge).credmax = s.credmax := rfl
@[simp] theorem State.acknowledge_credit (s : State) : (s.acknowledge).credit = s.credit := rfl
@[simp] theorem State.acknowledge_codec (s : State) : (s.acknowledge).codec = s.codec := rfl
@[simp] theorem State.acknowledge_fpos (s : State) : (s.acknowledge).fpos = s.fpos := rfl
@[simp] theorem State.acknowledge_flen (s : State) : (s.acknowledge).flen = s.flen := rfl
@[simp] theorem State.acknowledge_dpos (s : State) : (s.acknowledge).dpos = s.dpos := rfl
@[simp] theorem State.acknowledge_a0 (s : State) : (s.acknowledge).a0 = s.a0 := rfl
@[simp] theorem State.acknowledge_a1 (s : State) : (s.acknowledge).a1 = s.a1 := rfl
@[simp] theorem State.acknowledge_fld (s : State) : (s.acknowledge).fld = s.fld := rfl
@[simp] theorem State.acknowledge_fbuf (s : State) : (s.acknowledge).fbuf = s.fbuf := rfl
@[simp] theorem State.acknowledge_pending (s : State) : (s.acknowledge).pending = s.pending := rfl
@[simp] theorem State.acknowledge_reply (s : State) : (s.acknowledge).reply = s.reply := rfl
@[simp] theorem State.acknowledge_draw (s : State) : (s.acknowledge).draw = s.draw := rfl
@[simp] theorem State.acknowledge_err (s : State) : s.acknowledge.err = none := rfl
@[simp] theorem State.acknowledge_errinfo (s : State) : s.acknowledge.errinfo = 0 := rfl
@[simp] theorem State.acknowledge_dumplen (s : State) : s.acknowledge.dumplen = 0 := rfl

@[simp] theorem State.acknowledge_len (s : State) (b : Arena) : (s.acknowledge).len b = s.len b := by cases b <;> rfl
@[simp] theorem State.acknowledge_kind (s : State) (b : Arena) : (s.acknowledge).kind b = s.kind b := by cases b <;> rfl
@[simp] theorem State.acknowledge_buf (s : State) (q : Space) : (s.acknowledge).buf q = s.buf q := by cases q <;> rfl

/-! ## `State.accept` -/

@[simp] theorem State.accept_par (s : State) (rest : List HostAccess) : (s.accept rest).par = s.par := rfl
@[simp] theorem State.accept_ctrl (s : State) (rest : List HostAccess) : (s.accept rest).ctrl = s.ctrl := rfl
@[simp] theorem State.accept_err (s : State) (rest : List HostAccess) : (s.accept rest).err = s.err := rfl
@[simp] theorem State.accept_errinfo (s : State) (rest : List HostAccess) : (s.accept rest).errinfo = s.errinfo := rfl
@[simp] theorem State.accept_dumplen (s : State) (rest : List HostAccess) : (s.accept rest).dumplen = s.dumplen := rfl
@[simp] theorem State.accept_val (s : State) (rest : List HostAccess) : (s.accept rest).val = s.val := rfl
@[simp] theorem State.accept_fldlen (s : State) (rest : List HostAccess) : (s.accept rest).fldlen = s.fldlen := rfl
@[simp] theorem State.accept_nextOff (s : State) (rest : List HostAccess) : (s.accept rest).nextOff = s.nextOff := rfl
@[simp] theorem State.accept_len0 (s : State) (rest : List HostAccess) : (s.accept rest).len0 = s.len0 := rfl
@[simp] theorem State.accept_len1 (s : State) (rest : List HostAccess) : (s.accept rest).len1 = s.len1 := rfl
@[simp] theorem State.accept_kind0 (s : State) (rest : List HostAccess) : (s.accept rest).kind0 = s.kind0 := rfl
@[simp] theorem State.accept_kind1 (s : State) (rest : List HostAccess) : (s.accept rest).kind1 = s.kind1 := rfl
@[simp] theorem State.accept_debsize (s : State) (rest : List HostAccess) : (s.accept rest).debsize = s.debsize := rfl
@[simp] theorem State.accept_credmax (s : State) (rest : List HostAccess) : (s.accept rest).credmax = s.credmax := rfl
@[simp] theorem State.accept_credit (s : State) (rest : List HostAccess) : (s.accept rest).credit = s.credit := rfl
@[simp] theorem State.accept_codec (s : State) (rest : List HostAccess) : (s.accept rest).codec = s.codec := rfl
@[simp] theorem State.accept_fpos (s : State) (rest : List HostAccess) : (s.accept rest).fpos = s.fpos := rfl
@[simp] theorem State.accept_flen (s : State) (rest : List HostAccess) : (s.accept rest).flen = s.flen := rfl
@[simp] theorem State.accept_dpos (s : State) (rest : List HostAccess) : (s.accept rest).dpos = s.dpos := rfl
@[simp] theorem State.accept_a0 (s : State) (rest : List HostAccess) : (s.accept rest).a0 = s.a0 := rfl
@[simp] theorem State.accept_a1 (s : State) (rest : List HostAccess) : (s.accept rest).a1 = s.a1 := rfl
@[simp] theorem State.accept_fld (s : State) (rest : List HostAccess) : (s.accept rest).fld = s.fld := rfl
@[simp] theorem State.accept_fbuf (s : State) (rest : List HostAccess) : (s.accept rest).fbuf = s.fbuf := rfl
@[simp] theorem State.accept_pending (s : State) (rest : List HostAccess) : (s.accept rest).pending = rest := rfl
@[simp] theorem State.accept_reply (s : State) (rest : List HostAccess) : (s.accept rest).reply = none := rfl
@[simp] theorem State.accept_draw (s : State) (rest : List HostAccess) : (s.accept rest).draw = s.draw := rfl

@[simp] theorem State.accept_len (s : State) (rest : List HostAccess) (b : Arena) : (s.accept rest).len b = s.len b := by cases b <;> rfl
@[simp] theorem State.accept_kind (s : State) (rest : List HostAccess) (b : Arena) : (s.accept rest).kind b = s.kind b := by cases b <;> rfl
@[simp] theorem State.accept_buf (s : State) (rest : List HostAccess) (q : Space) : (s.accept rest).buf q = s.buf q := by cases q <;> rfl

/-! ## The updated per-arena register -/

theorem State.setLen_len (s : State) (a b : Arena) (n : Nat) (h : n < 2 ^ 18) :
    (s.setLen a n).len b = if b = a then n else s.len b := by
  cases a <;> cases b <;> simp [State.setLen, State.len] <;> omega

@[simp] theorem State.setKind_kind (s : State) (a b : Arena) (k : Option Kind) :
    (s.setKind a k).kind b = if b = a then k else s.kind b := by
  cases a <;> cases b <;> rfl

@[simp] theorem State.writeBytes_buf (s : State) (sp q : Space) (lo : Nat) (bs : List Byte) :
    (s.writeBytes sp lo bs).buf q = if q = sp then (s.buf sp).write lo bs else s.buf q := by
  cases sp <;> cases q <;> rfl

/-! ## Reads see only the buffer and the free-value counter -/

theorem State.readByte_congr {s t : State} {sp : Space} (hb : t.buf sp = s.buf sp) (hd : t.draw = s.draw)
    (i : Nat) : t.readByte sp i = s.readByte sp i := by
  simp only [State.readByte, hb, hd]

@[simp] theorem State.setLen_readByte (s : State) (a : Arena) (n : Nat) (q : Space) (i : Nat) :
    (s.setLen a n).readByte q i = s.readByte q i := State.readByte_congr (by simp) (by simp) i
@[simp] theorem State.setLen_readBytes (s : State) (a : Arena) (n : Nat) (q : Space) (lo m : Nat) :
    (s.setLen a n).readBytes q lo m = s.readBytes q lo m := by simp [State.readBytes]
@[simp] theorem State.setKind_readByte (s : State) (a : Arena) (k : Option Kind) (q : Space) (i : Nat) :
    (s.setKind a k).readByte q i = s.readByte q i := State.readByte_congr (by simp) (by simp) i
@[simp] theorem State.setKind_readBytes (s : State) (a : Arena) (k : Option Kind) (q : Space) (lo m : Nat) :
    (s.setKind a k).readBytes q lo m = s.readBytes q lo m := by simp [State.readBytes]
@[simp] theorem State.accept_readByte (s : State) (rest : List HostAccess) (q : Space) (i : Nat) :
    (s.accept rest).readByte q i = s.readByte q i := State.readByte_congr (by simp) (by simp) i
@[simp] theorem State.accept_readBytes (s : State) (rest : List HostAccess) (q : Space) (lo m : Nat) :
    (s.accept rest).readBytes q lo m = s.readBytes q lo m := by simp [State.readBytes]
@[simp] theorem State.resetRegisters_readByte (s : State) (q : Space) (i : Nat) :
    s.resetRegisters.readByte q i = s.readByte q i := State.readByte_congr (by cases q <;> rfl) rfl i
@[simp] theorem State.setNext_readByte (s : State) (n : Nat) (q : Space) (i : Nat) :
    (s.setNext n).readByte q i = s.readByte q i := State.readByte_congr (by simp) (by simp) i
@[simp] theorem State.setNext_readBytes (s : State) (n : Nat) (q : Space) (lo m : Nat) :
    (s.setNext n).readBytes q lo m = s.readBytes q lo m := by simp [State.readBytes]
@[simp] theorem State.recordError_readByte (s : State) (opw : Word) (e : ErrCode) (info dump : Nat) (q : Space) (i : Nat) :
    (s.recordError opw e info dump).readByte q i = s.readByte q i := State.readByte_congr (by simp) (by simp) i
@[simp] theorem State.recordError_readBytes (s : State) (opw : Word) (e : ErrCode) (info dump : Nat) (q : Space) (lo m : Nat) :
    (s.recordError opw e info dump).readBytes q lo m = s.readBytes q lo m := by simp [State.readBytes]
@[simp] theorem State.acknowledge_readByte (s : State) (q : Space) (i : Nat) :
    (s.acknowledge).readByte q i = s.readByte q i := State.readByte_congr (by simp) (by simp) i
@[simp] theorem State.acknowledge_readBytes (s : State) (q : Space) (lo m : Nat) :
    (s.acknowledge).readBytes q lo m = s.readBytes q lo m := by simp [State.readBytes]

end Sys2Proof.Machine
end

