-- ==== Sys2Proof/Laws/Memory.lean ====
section
/-! SUPPORT. The laws of the buffers: what a write leaves at every index, that it keeps the canonical form,
and what reads of ranges see of it. -/

namespace Sys2Proof.Machine

/-! ## Lookup -/

theorem Memory.lookup_append (m n : Memory) (i : Nat) :
    Memory.lookup (m ++ n) i = (Memory.lookup m i).or (Memory.lookup n i) := by
  simp [Memory.lookup, List.find?_append]
  cases m.find? (fun c => c.1 == i) <;> simp

theorem Memory.lookup_cons (c : Host.Cell) (m : Memory) (i : Nat) :
    Memory.lookup (c :: m) i = if c.1 = i then some c.2 else Memory.lookup m i := by
  by_cases h : c.1 = i <;> simp [Memory.lookup, h]

theorem Memory.lookup_cells (lo : Nat) (bs : List Byte) (i : Nat) :
    Memory.lookup (Memory.cells lo bs) i = if lo ≤ i then bs[i - lo]? else none := by
  induction bs generalizing lo with
  | nil => simp [Memory.cells, Memory.lookup]
  | cons b bs ih =>
    rw [Memory.cells, Memory.lookup_cons, ih]
    by_cases h : lo = i
    · subst h; simp
    · by_cases h2 : lo ≤ i
      · obtain ⟨k, rfl⟩ : ∃ k, i = lo + 1 + k := ⟨i - (lo + 1), by omega⟩
        have hk : lo + 1 + k - lo = k + 1 := by omega
        simp [hk, h]
        intro h'; omega
      · rw [if_neg h, if_neg h2, if_neg (by omega)]

theorem Memory.lookup_filter (m : Memory) (p : Nat → Bool) (i : Nat) :
    Memory.lookup (m.filter (fun c => p c.1)) i = if p i then Memory.lookup m i else none := by
  induction m with
  | nil => simp [Memory.lookup]
  | cons c m ih =>
    rw [Memory.lookup_cons]
    by_cases hp : p c.1
    · rw [List.filter_cons_of_pos (p := fun c : Host.Cell => p c.1) hp, Memory.lookup_cons, ih]
      by_cases hc : c.1 = i
      · subst hc; simp [hp]
      · simp [hc]
    · rw [List.filter_cons_of_neg (p := fun c : Host.Cell => p c.1) hp, ih]
      by_cases hc : c.1 = i
      · subst hc; simp [hp]
      · simp [hc]

/-- Read over write: the written bytes where they lie, everything else as before. -/
theorem Memory.lookup_write (m : Memory) (lo : Nat) (bs : List Byte) (i : Nat) :
    (m.write lo bs).lookup i =
      if lo ≤ i ∧ i < lo + bs.length then bs[i - lo]? else m.lookup i := by
  unfold Memory.write
  rw [Memory.lookup_append, Memory.lookup_append, Memory.lookup_cells,
    Memory.lookup_filter m (fun j => decide (j < lo)),
    Memory.lookup_filter m (fun j => decide (lo + bs.length ≤ j))]
  by_cases h1 : i < lo
  · have h2 : ¬ lo ≤ i := by omega
    have h3 : ¬ lo + bs.length ≤ i := by omega
    simp [h1, h2, h3]
  · have h2 : lo ≤ i := by omega
    by_cases h3 : i < lo + bs.length
    · have h4 : i - lo < bs.length := by omega
      have h5 : ¬ lo + bs.length ≤ i := by omega
      simp [h1, h2, h3, h4]
    · have h4 : bs.length ≤ i - lo := by omega
      simp [h1, h2, h3, h4]

/-! ## Canonical form -/

theorem Memory.cells_index {lo : Nat} {bs : List Byte} {c : Host.Cell} (h : c ∈ Memory.cells lo bs) :
    lo ≤ c.1 ∧ c.1 < lo + bs.length := by
  induction bs generalizing lo with
  | nil => simp [Memory.cells] at h
  | cons b bs ih =>
    rcases List.mem_cons.1 h with rfl | h
    · simp
    · have := ih h
      simp only [List.length_cons]
      omega

theorem Memory.cells_pairwise (lo : Nat) (bs : List Byte) :
    (Memory.cells lo bs).Pairwise (fun c d => c.1 < d.1) := by
  induction bs generalizing lo with
  | nil => simp [Memory.cells]
  | cons b bs ih =>
    refine List.pairwise_cons.2 ⟨fun c hc => ?_, ih (lo + 1)⟩
    have := Memory.cells_index hc
    simp only
    omega

/-- Every write inside the capacity keeps the canonical form. -/
theorem Memory.wf_write {cap : Nat} {m : Memory} (h : m.wf cap) (lo : Nat) (bs : List Byte)
    (hi : lo + bs.length ≤ cap ∨ bs = []) : (m.write lo bs).wf cap := by
  obtain ⟨hp, hc⟩ := h
  refine ⟨?_, ?_⟩
  · refine List.pairwise_append.2 ⟨List.pairwise_append.2 ⟨hp.filter _, Memory.cells_pairwise lo bs, ?_⟩,
      hp.filter _, ?_⟩
    · intro c hc d hd
      have h1 := Memory.cells_index hd
      have h2 := (List.mem_filter.1 hc).2
      simp only [decide_eq_true_eq] at h2
      omega
    · intro c hc d hd
      have h2 := (List.mem_filter.1 hd).2
      simp only [decide_eq_true_eq] at h2
      rcases List.mem_append.1 hc with hc | hc
      · have h1 := (List.mem_filter.1 hc).2
        simp only [decide_eq_true_eq] at h1
        omega
      · have h1 := Memory.cells_index hc
        omega
  · intro c hcm
    rcases List.mem_append.1 hcm with hcm | hcm
    · rcases List.mem_append.1 hcm with hcm | hcm
      · exact hc c (List.mem_filter.1 hcm).1
      · have h1 := Memory.cells_index hcm
        rcases hi with hi | rfl
        · omega
        · simp [Memory.cells] at hcm
    · exact hc c (List.mem_filter.1 hcm).1

theorem State.writeBytes_wf {s : State} {sp : Space} {lo : Nat} {bs : List Byte}
    (h : ∀ q, (s.buf q).wf (q.cap s.par)) (hi : lo + bs.length ≤ sp.cap s.par ∨ bs = []) (q : Space) :
    ((s.writeBytes sp lo bs).buf q).wf (q.cap s.par) := by
  rw [State.writeBytes_buf]
  split
  · subst_vars; exact Memory.wf_write (h _) lo bs hi
  · exact h q

/-! ## Reads of bytes and ranges -/

/-- Read over write through the State: the written bytes where they lie, everything else as before. -/
theorem State.readByte_writeBytes (s : State) (sp q : Space) (lo i : Nat) (bs : List Byte) :
    (s.writeBytes sp lo bs).readByte q i =
      if h : q = sp ∧ lo ≤ i ∧ i < lo + bs.length then bs[i - lo]'(by omega) else s.readByte q i := by
  simp only [State.readByte, State.writeBytes_buf, State.writeBytes_draw]
  by_cases hq : q = sp
  · subst hq
    rw [if_pos rfl, Memory.lookup_write]
    by_cases hi : lo ≤ i ∧ i < lo + bs.length
    · have h4 : i - lo < bs.length := by omega
      simp [hi, h4]
    · simp [hi]
  · simp [hq]

theorem State.readByte_writeBytes_other (s : State) {sp q : Space} {lo i : Nat} {bs : List Byte}
    (h : ¬ (q = sp ∧ lo ≤ i ∧ i < lo + bs.length)) :
    (s.writeBytes sp lo bs).readByte q i = s.readByte q i := by
  rw [State.readByte_writeBytes, dif_neg h]

@[simp] theorem State.readBytes_length (s : State) (sp : Space) (lo n : Nat) :
    (s.readBytes sp lo n).length = n := by
  simp [State.readBytes]

@[simp] theorem State.readBytes_zero (s : State) (sp : Space) (lo : Nat) : s.readBytes sp lo 0 = [] := rfl

theorem State.readBytes_getElem (s : State) (sp : Space) (lo n j : Nat)
    (h : j < (s.readBytes sp lo n).length) : (s.readBytes sp lo n)[j] = s.readByte sp (lo + j) := by
  simp [State.readBytes]

/-- Two ranges read alike when they read alike byte by byte. -/
theorem State.readBytes_congr {s t : State} {p q : Space} {lo mo n : Nat}
    (h : ∀ j, j < n → t.readByte q (mo + j) = s.readByte p (lo + j)) :
    t.readBytes q mo n = s.readBytes p lo n := by
  unfold State.readBytes
  exact List.map_congr_left (fun j hj => h j (List.mem_range.1 hj))

/-- A range just written reads as the bytes written. -/
theorem State.readBytes_writeBytes_same (s : State) (sp : Space) (lo : Nat) (bs : List Byte) :
    (s.writeBytes sp lo bs).readBytes sp lo bs.length = bs := by
  apply List.ext_getElem
  · simp
  · intro j h1 h2
    rw [State.readBytes_getElem, State.readByte_writeBytes, dif_pos ⟨rfl, by omega, by omega⟩]
    simp

/-- A range a write does not touch reads as before. -/
theorem State.readBytes_writeBytes_other (s : State) {sp q : Space} {lo mo n : Nat} {bs : List Byte}
    (h : q ≠ sp ∨ mo + n ≤ lo ∨ lo + bs.length ≤ mo) :
    (s.writeBytes sp lo bs).readBytes q mo n = s.readBytes q mo n := by
  apply State.readBytes_congr
  intro j hj
  apply State.readByte_writeBytes_other
  rintro ⟨h1, h2, h3⟩
  rcases h with h | h | h
  · exact h h1
  · omega
  · omega

end Sys2Proof.Machine
end

