-- ==== Sys2Proof/Laws/Ops.lean ====
section
/-! SUPPORT. One lemma for each shared operation, saying once everything it can do; later proofs cite these
instead of unfolding the operation. -/

namespace Sys2Proof.Machine

/-! ## Errors -/

theorem raise_eq (i : Instr) (e : ErrCode) (info : Nat) (s : State) :
    raise i e info s = .next (s.recordError (encode i) e info 0) := rfl

theorem raiseCheck_eq (i : Instr) (a : Arena) (e : ErrCode) (info : Nat) (s : State) :
    raiseCheck i a e info s = .next (s.recordError (encode i) e info (min (s.len a) 256)) := rfl

/-- Error entry changes the error registers and nothing else (60_exceptions.md R275). -/
theorem State.recordError_onlyError (s : State) (opw : Word) (e : ErrCode) (info dump : Nat) :
    OnlyErrorChanged s (s.recordError opw e info dump) := rfl

/-- The return from the error state changes the error registers and nothing else (60_exceptions.md R280). -/
theorem State.acknowledge_onlyError (s : State) : OnlyErrorChanged s s.acknowledge := rfl

/-! ## The tests of the field operations -/

/-- Everything the two opening tests of a field operation can do (41_fixed_fields.md R160). -/
theorem inView_spec {i : Instr} {a : Arena} {stop : Nat} {s t : State}
    {body : Host.Outcome State Fault Refusal} (h : inView i a stop s body = .next t) :
    (s.kind a = none ∧ t = s.recordError (encode i) .state a.number 0) ∨
    (s.kind a ≠ none ∧ s.len a < stop ∧ t = s.recordError (encode i) .bounds stop 0) ∨
    (s.kind a ≠ none ∧ stop ≤ s.len a ∧ body = .next t) := by
  unfold inView at h
  split at h
  · rename_i hk
    cases h
    exact .inl ⟨hk, rfl⟩
  · rename_i hk
    split at h
    · rename_i hs
      exact .inr (.inr ⟨hk, hs, h⟩)
    · rename_i hs
      cases h
      exact .inr (.inl ⟨hk, by omega, rfl⟩)

/-- A field operation with a live view and its field inside the command goes on with its own lines. -/
theorem inView_of_live {i : Instr} {a : Arena} {stop : Nat} {s : State}
    {body : Host.Outcome State Fault Refusal} (hk : s.kind a ≠ none) (hs : stop ≤ s.len a) :
    inView i a stop s body = body := by
  unfold inView
  rw [if_neg hk, if_pos hs]

/-- Everything the text prefix tests can do (42_variable_fields.md R192, R193). -/
theorem textField_spec {i : Instr} {a : Arena} {off : Nat} {s t : State}
    {body : Nat → Host.Outcome State Fault Refusal} (h : textField i a off s body = .next t) :
    (∃ e info, t = s.recordError (encode i) e info 0) ∨
    (s.kind a ≠ none ∧ firstBad isDigit (s.readBytes a.space off 3) = none ∧
      off + 3 + undec (s.readBytes a.space off 3) ≤ s.len a ∧
      body (undec (s.readBytes a.space off 3)) = .next t) := by
  rcases inView_spec h with ⟨_, rfl⟩ | ⟨_, _, rfl⟩ | ⟨hk, _, hb⟩
  · exact .inl ⟨_, _, rfl⟩
  · exact .inl ⟨_, _, rfl⟩
  · dsimp only at hb
    split at hb
    · cases hb
      exact .inl ⟨_, _, rfl⟩
    · rename_i hd
      split at hb
      · rename_i hl
        exact .inr ⟨hk, hd, hl, hb⟩
      · cases hb
        exact .inl ⟨_, _, rfl⟩

/-- Everything the binary prefix tests can do (42_variable_fields.md R194, R195). -/
theorem binaryField_spec {i : Instr} {a : Arena} {off : Nat} {s t : State}
    {body : Nat → Host.Outcome State Fault Refusal} (h : binaryField i a off s body = .next t) :
    (∃ e info, t = s.recordError (encode i) e info 0) ∨
    (s.kind a ≠ none ∧ off + 2 + unbe (s.readBytes a.space off 2) ≤ s.len a ∧
      body (unbe (s.readBytes a.space off 2)) = .next t) := by
  rcases inView_spec h with ⟨_, rfl⟩ | ⟨_, _, rfl⟩ | ⟨hk, _, hb⟩
  · exact .inl ⟨_, _, rfl⟩
  · exact .inl ⟨_, _, rfl⟩
  · dsimp only at hb
    split at hb
    · rename_i hl
      exact .inr ⟨hk, hl, hb⟩
    · cases hb
      exact .inl ⟨_, _, rfl⟩

/-! ## Resize and install -/

@[simp] theorem State.resize_draw (s : State) (a : Arena) (off p old new : Nat) :
    (s.resize a off p old new).draw = s.draw := by
  unfold State.resize; split <;> simp

@[simp] theorem State.resize_kind (s : State) (a b : Arena) (off p old new : Nat) :
    (s.resize a off p old new).kind b = s.kind b := by
  unfold State.resize; split <;> simp

/-- The length after the resize step (42_variable_fields.md R191). -/
theorem State.resize_len (s : State) (a b : Arena) {off p old new : Nat}
    (ho : old ≤ s.len a) (hn : s.len a - old + new < 2 ^ 18) :
    (s.resize a off p old new).len b = if b = a then s.len a - old + new else s.len b := by
  unfold State.resize
  split
  · subst new
    split
    · subst b; omega
    · rfl
  · rw [State.setLen_len _ _ _ _ hn]
    simp

/-- Every byte after the resize step: the tail displaced, everything else as before
(42_variable_fields.md R191). -/
theorem State.resize_readByte (s : State) (a : Arena) {off p old new : Nat} (q : Space) (i : Nat)
    (ho : off + p + old ≤ s.len a) :
    (s.resize a off p old new).readByte q i =
      if q = a.space ∧ off + p + new ≤ i ∧ i < s.len a - old + new then
        s.readByte q (i - new + old)
      else s.readByte q i := by
  unfold State.resize
  split
  · subst new
    split
    · congr 1; omega
    · rfl
  · simp only [State.setLen_readByte, State.readByte_writeBytes, State.readBytes_length]
    by_cases h : q = a.space ∧ off + p + new ≤ i ∧ i < s.len a - old + new
    · have h' : q = a.space ∧ off + p + new ≤ i ∧
          i < off + p + new + (s.len a - (off + p + old)) := ⟨h.1, h.2.1, by omega⟩
      rw [dif_pos h', if_pos h, State.readBytes_getElem, h.1]
      congr 1; omega
    · have h' : ¬ (q = a.space ∧ off + p + new ≤ i ∧
          i < off + p + new + (s.len a - (off + p + old))) := fun hc => h ⟨hc.1, hc.2.1, by omega⟩
      rw [dif_neg h', if_neg h]

/-- Everything the end of `PUTT` and `PUTB` can do (42_variable_fields.md R191, R192, R194). -/
theorem installVariable_spec {i : Instr} {a : Arena} {off old : Nat} {pre body : List Byte} {s t : State}
    (h : installVariable i a off old pre body s = .next t) :
    (s.debsize.toNat < s.len a - old + body.length ∧
      t = s.recordError (encode i) .bounds (s.len a - old + body.length) 0) ∨
    (s.len a - old + body.length ≤ s.debsize.toNat ∧
      t = (((s.resize a off pre.length old body.length).writeBytes a.space off pre).writeBytes a.space
        (off + pre.length) body).setNext (off + pre.length + body.length)) := by
  unfold installVariable at h
  dsimp only at h
  split at h
  · rename_i hl
    cases h
    exact .inr ⟨hl, rfl⟩
  · cases h
    exact .inl ⟨by omega, rfl⟩

/-! ## Numbers in bytes -/

@[simp] theorem dec_length (v w : Nat) : (dec v w).length = w := by simp [dec]

@[simp] theorem be_length (v w : Nat) : (be v w).length = w := by simp [be]

@[simp] theorem padded_length {bs : List Byte} {w : Nat} (h : bs.length ≤ w) : (padded bs w).length = w := by
  simp [padded]; omega

@[simp] theorem State.staged_length (s : State) : s.staged.length = s.fldlen.toNat := by
  simp [State.staged]

theorem blankCommand_length (sig : Byte) (l : Layout) (h : 1 ≤ l.len) : (blankCommand sig l).length = l.len := by
  unfold blankCommand
  dsimp only
  split <;> simp <;> omega

/-! ## Fixed fields and deliveries -/

@[simp] theorem State.storeField_readByte (s : State) (a : Arena) (off : Nat) (bs : List Byte) (q : Space) (i : Nat) :
    (s.storeField a off bs).readByte q i = (s.writeBytes a.space off bs).readByte q i := by
  simp [State.storeField]

@[simp] theorem State.deliver_readByte (s : State) (bs : List Byte) (stop : Nat) (q : Space) (i : Nat) :
    (s.deliver bs stop).readByte q i = (s.writeBytes .fld 0 bs).readByte q i := rfl

@[simp] theorem State.deliverNumber_readByte (s : State) (v stop : Nat) (q : Space) (i : Nat) :
    (s.deliverNumber v stop).readByte q i = s.readByte q i := by cases q <;> rfl

end Sys2Proof.Machine
end

