-- ==== Sys2Proof/Laws/PerInstr.lean ====
section
/-! SUPPORT. Statements made for every operation, one lemma a constructor. -/

namespace Sys2Proof.Laws

/-- The word of an operation has the bits its row of the opcode map fixes (30_encoding.md R103). -/
def EncodeMatchesRow.Statement (i : Instr) : Prop := encode i &&& i.opcode.mask = i.opcode.pattern

theorem EncodeMatchesRow.nop :
    EncodeMatchesRow.Statement .nop := by
  unfold EncodeMatchesRow.Statement; decide

theorem EncodeMatchesRow.sreset :
    EncodeMatchesRow.Statement .sreset := by
  unfold EncodeMatchesRow.Statement; decide

theorem EncodeMatchesRow.new (a : Arena) (k : Kind) :
    EncodeMatchesRow.Statement (.new a k) := by
  unfold EncodeMatchesRow.Statement; revert a k; rintro ⟨⟩ ⟨⟩ <;> decide

theorem EncodeMatchesRow.check (a : Arena) (e : Option Kind) :
    EncodeMatchesRow.Statement (.check a e) := by
  unfold EncodeMatchesRow.Statement; revert a e; rintro ⟨⟩ (_ | ⟨⟨⟩⟩) <;> decide

theorem EncodeMatchesRow.puta (a : Arena) (off : BitVec 17) (w : BitVec 8) :
    EncodeMatchesRow.Statement (.puta a off w) := 
  (assemble_and_mask .puta a.bit off w).1

theorem EncodeMatchesRow.geta (a : Arena) (off : BitVec 17) (w : BitVec 8) :
    EncodeMatchesRow.Statement (.geta a off w) := 
  (assemble_and_mask .geta a.bit off w).1

theorem EncodeMatchesRow.putn (a : Arena) (off : BitVec 17) (w : BitVec 8) :
    EncodeMatchesRow.Statement (.putn a off w) := 
  (assemble_and_mask .putn a.bit off w).1

theorem EncodeMatchesRow.getn (a : Arena) (off : BitVec 17) (w : BitVec 8) :
    EncodeMatchesRow.Statement (.getn a off w) := 
  (assemble_and_mask .getn a.bit off w).1

theorem EncodeMatchesRow.putu (a : Arena) (off : BitVec 17) (w : BitVec 8) :
    EncodeMatchesRow.Statement (.putu a off w) := 
  (assemble_and_mask .putu a.bit off w).1

theorem EncodeMatchesRow.getu (a : Arena) (off : BitVec 17) (w : BitVec 8) :
    EncodeMatchesRow.Statement (.getu a off w) := 
  (assemble_and_mask .getu a.bit off w).1

theorem EncodeMatchesRow.putt (a : Arena) (off : BitVec 17) :
    EncodeMatchesRow.Statement (.putt a off) := 
  (assemble_and_mask .putt a.bit off 0).2.1

theorem EncodeMatchesRow.gett (a : Arena) (off : BitVec 17) :
    EncodeMatchesRow.Statement (.gett a off) := 
  (assemble_and_mask .gett a.bit off 0).2.1

theorem EncodeMatchesRow.putb (a : Arena) (off : BitVec 17) :
    EncodeMatchesRow.Statement (.putb a off) := 
  (assemble_and_mask .putb a.bit off 0).2.1

theorem EncodeMatchesRow.getb (a : Arena) (off : BitVec 17) :
    EncodeMatchesRow.Statement (.getb a off) := 
  (assemble_and_mask .getb a.bit off 0).2.1

theorem EncodeMatchesRow.rlenc (a : Arena) :
    EncodeMatchesRow.Statement (.rlenc a) := 
  (assemble_and_mask .rlenc a.bit 0 0).2.2

theorem EncodeMatchesRow.rldec (a : Arena) :
    EncodeMatchesRow.Statement (.rldec a) := 
  (assemble_and_mask .rldec a.bit 0 0).2.2

theorem EncodeMatchesRow.rleos :
    EncodeMatchesRow.Statement .rleos := by
  unfold EncodeMatchesRow.Statement; decide

theorem EncodeMatchesRow.rlinit :
    EncodeMatchesRow.Statement .rlinit := by
  unfold EncodeMatchesRow.Statement; decide

theorem EncodeMatchesRow.crinit :
    EncodeMatchesRow.Statement .crinit := by
  unfold EncodeMatchesRow.Statement; decide

theorem EncodeMatchesRow.crtake :
    EncodeMatchesRow.Statement .crtake := by
  unfold EncodeMatchesRow.Statement; decide

theorem EncodeMatchesRow.crgrant :
    EncodeMatchesRow.Statement .crgrant := by
  unfold EncodeMatchesRow.Statement; decide

end Sys2Proof.Laws
end

