-- ==== Sys2Proof/Tests/Slice0.lean ====
section
/-! SUPPORT. Tests: the well-formedness smoke, words written out from the spec's encodings, one or two small
tests an operation on states of a few bytes, and a state for the hypotheses of every statement. Expected
results come from the spec's worked examples and vectors; a name such as C14 is the vector's. -/

namespace Sys2Proof.Tests

set_option Elab.async false

open Sys2Proof Sys2Proof.Machine

/-! ## Helpers -/

/-- An outcome seen through a projection of the next state; `none` for a stop. -/
def after {α : Type} (o : Host.Outcome State Fault Refusal) (f : State → α) : Option α :=
  match o with
  | .next t => some (f t)
  | .fault _ => none
  | .refused _ => none

/-- The outcome is a next state. -/
def isNext (o : Host.Outcome State Fault Refusal) : Bool := (after o (fun _ => ())).isSome

/-- The next state of an outcome. -/
def out (o : Host.Outcome State Fault Refusal) : State := (after o id).getD State.reset

theorem out_next {o : Host.Outcome State Fault Refusal} (h : isNext o = true) : o = .next (out o) := by
  cases o with
  | next t => rfl
  | fault r => simp [isNext, after] at h
  | refused r => simp [isNext, after] at h

/-- The error registers as the vectors show them: code, word, `ERRINFO`, `DUMPLEN`. -/
def errors (s : State) : Option (BitVec 8 × Word) × Nat × Nat :=
  (s.err.map (fun r => (r.code.code, r.opw)), s.errinfo.toNat, s.dumplen.toNat)

/-- A state with a command in an arena. -/
def holding (a : Arena) (k : Option Kind) (bs : List Byte) (s : State) : State :=
  ((s.writeBytes a.space 0 bs).setLen a bs.length).setKind a k

/-- A state with bytes staged in `FLD`. -/
def staging (bs : List Byte) (s : State) : State :=
  { s.writeBytes .fld 0 bs with fldlen := BitVec.ofNat 16 bs.length }

/-- A state with a chunk in `FBUF` and `FEOR` as given, compression on. -/
def chunk (bs : List Byte) (feor : Bool) (s : State) : State :=
  { s.writeBytes .fbuf 0 bs with
    flen := BitVec.ofNat 18 bs.length
    ctrl := { s.ctrl with cmpen := true }
    codec := { s.codec with feor := feor } }

/-- The start state of the vectors: reset, then `CTRL.VER` = V2 (95_test_vectors.md). -/
def start : State := { State.reset with ctrl := { ver := .v2, cmpen := false, ie := false } }

/-- A text field at offset 3 with the body "OK" (42_variable_fields.md R192). -/
def esid : List Byte := [0x46, 0x20, 0x20, 0x30, 0x30, 0x32, 0x4F, 0x4B, 0x0D]

/-- A text field at offset 3 with no body (42_variable_fields.md R192). -/
def esidEmpty : List Byte := [0x46, 0x20, 0x20, 0x30, 0x30, 0x30, 0x0D]

/-- A binary field at offset 1 with a body of 3 bytes (42_variable_fields.md R194). -/
def auch : List Byte := [0x41, 0x00, 0x03, 0xDE, 0xAD, 0xBE, 0x58, 0x59]

/-- A Data command of three sub-records (43_rlc.md R219). -/
def dataCommand : List Byte := [0x44, 0x01, 0x41, 0x46, 0x42, 0x82, 0x43, 0x43]

/-- Start-Session as `NEW` lays it out: 61 bytes (95_test_vectors.md 2.3). -/
def ssid : State := holding .a0 (some .ssid) (0x58 :: List.replicate 59 0x20 ++ [0x0D]) start

/-- A state in which a `CRTAKE` at zero credit has raised its error (60_exceptions.md R275, vector Y3). -/
def failed : State := out (exec .crtake (holding .a1 (some .data) dataCommand start))

/-! ## Well-formedness: one ill-formed operation for each check (30_encoding.md R103) -/

theorem test_puta_of_width_0_is_ill_formed : (Instr.puta .a0 2 0).wellFormed = false := by decide
theorem test_geta_of_width_0_is_ill_formed : (Instr.geta .a1 2 0).wellFormed = false := by decide
theorem test_putn_of_width_20_is_ill_formed : (Instr.putn .a0 35 20).wellFormed = false := by decide
theorem test_getn_of_width_0_is_ill_formed : (Instr.getn .a1 44 0).wellFormed = false := by decide
theorem test_putu_of_width_5_is_ill_formed : (Instr.putu .a0 106 5).wellFormed = false := by decide
theorem test_getu_of_width_255_is_ill_formed : (Instr.getu .a1 1 255).wellFormed = false := by decide

/-! ## Decoding: the words of 95_test_vectors.md 2.1, and each illegal neighbour -/

/-- Every constructor's word, as the table of 95_test_vectors.md 2.1 writes it out. -/
theorem test_words_decode :
    decode 0x00000000 = .ok .nop ∧ decode 0x04000000 = .ok .sreset ∧
    decode 0x20000001 = .ok (.new .a0 .ssid) ∧ decode 0x24000007 = .ok (.check .a0 (some .cdt)) ∧
    decode 0x40000208 = .ok (.puta .a0 2 8) ∧ decode 0x460002FF = .ok (.geta .a1 2 255) ∧
    decode 0x48002305 = .ok (.putn .a0 35 5) ∧ decode 0x4E002C03 = .ok (.getn .a1 44 3) ∧
    decode 0x50006A02 = .ok (.putu .a0 106 2) ∧ decode 0x56000104 = .ok (.getu .a1 1 4) ∧
    decode 0x58000300 = .ok (.putt .a0 3) ∧ decode 0x5FFFFF00 = .ok (.gett .a1 131071) ∧
    decode 0x60000100 = .ok (.putb .a0 1) ∧ decode 0x66000100 = .ok (.getb .a1 1) ∧
    decode 0x80000000 = .ok (.rlenc .a0) ∧ decode 0x86000000 = .ok (.rldec .a1) ∧
    decode 0x88000000 = .ok .rleos ∧ decode 0x8C000000 = .ok .rlinit ∧
    decode 0xA0000000 = .ok .crinit ∧ decode 0xA4000000 = .ok .crtake ∧
    decode 0xA8000000 = .ok .crgrant := by decide +kernel

/-- `CHECK 1, ANY`, its bits written out by 30_encoding.md R100: `opc` 001001, `a` 1, `off` 0, `w` 00011111. -/
theorem test_word_bit_by_bit :
    decode (0b001001#6 ++ 0b1#1 ++ 0b00000000000000000#17 ++ 0b00011111#8 : BitVec 32).toNat =
      .ok (.check .a1 none) := by decide +kernel

/-- The illegal neighbours of 95_test_vectors.md 2.1, each under its case of 30_encoding.md R108. -/
theorem test_illegal_words_are_named :
    [0x00000001, 0x06000000, 0x24000107, 0x58000301, 0x5E000080, 0x60000102, 0x660001FF, 0x80000001,
      0x86000100, 0x8A000000, 0x8C000001].map decode = List.replicate 11 (.error .mustBeZero) ∧
    [0x2000001F, 0x22000012, 0x2600001E, 0x40000200, 0x46000200, 0x48002314, 0x4E002C00, 0x50006A05,
      0x560001FF].map decode = List.replicate 9 (.error .operandRange) ∧
    [0xAC000000, 0xFFFFFFFF, 0x08000000].map decode = List.replicate 3 (.error .reservedOpcode) ∧
    decode 0x0000000100000000 = .error .upperBits := by decide +kernel

/-- The encoder writes the same words. -/
theorem test_encode :
    encode (.new .a1 .aurp) = 0x22000011 ∧ encode (.check .a1 none) = 0x2600001F ∧
    encode (.getn .a1 44 3) = 0x4E002C03 ∧ encode (.gett .a1 131071) = 0x5FFFFF00 ∧
    encode (.rldec .a1) = 0x86000000 ∧ encode .crgrant = 0xA8000000 := by decide +kernel

/-! ## System operations -/

/-- Y1: `NOP` changes nothing. -/
theorem test_nop : after (exec .nop ssid) (fun t => t) = some ssid := by decide +kernel

/-- Y2: `SRESET` clears lengths, views and sizes and keeps the bytes. -/
theorem test_sreset :
    after (exec .sreset { ssid with credit := 5, credmax := 5, debsize := 4096 }) (fun t =>
      (t.len0.toNat, t.kind0, t.credit.toNat, t.debsize.toNat, t.readReg .status, t.readByte .a0 0)) =
      some (0, none, 0, 99999, 2, 0x58) := by decide +kernel

/-! ## Frame operations -/

/-- 40_frame.md R141, example: `NEW 0, CDT`. -/
theorem test_new :
    after (exec (.new .a0 .cdt) start) (fun t =>
      (t.readBytes .a0 0 3, t.len0.toNat, t.readReg .kind0, t.nextOff.toNat)) =
      some ([0x43, 0x20, 0x20], 3, 7, 1) := by decide +kernel

/-- 95_test_vectors.md 2.2: `NEW 0, NERP` in V1. -/
theorem test_new_version :
    after (exec (.new .a0 .nerp) State.reset) (fun t => (errors t, t.len0.toNat, t.kind0)) =
      some ((some (12, 0x2000000D), 13, 0), 0, none) := by decide +kernel

/-- C1: `CHECK 1, ANY` on a Set-Credit command. -/
theorem test_check :
    after (exec (.check .a1 none) (holding .a1 none [0x43, 0x20, 0x20] start)) (fun t =>
      (t.err, t.readReg .kind1, t.len1.toNat)) = some (none, 7, 3) := by decide +kernel

/-- C14: the wrong terminator, in V1. -/
theorem test_check_term :
    after (exec (.check .a1 none) (holding .a1 none [0x46, 0x20, 0x20, 0x20] State.reset)) (fun t =>
      (errors t, t.kind1)) = some ((some (3, 0x2600001F), 32, 4), none) := by decide +kernel

/-! ## Fixed fields -/

/-- A1: `PUTA 0, 2, 8` of "Abc/1". -/
theorem test_puta :
    after (exec (.puta .a0 2 8) (staging [0x41, 0x62, 0x63, 0x2F, 0x31] ssid)) (fun t =>
      (t.readBytes .a0 1 10, t.nextOff.toNat)) =
      some ([0x20, 0x41, 0x42, 0x43, 0x2F, 0x31, 0x20, 0x20, 0x20, 0x20], 10) := by decide +kernel

/-- A6: a byte outside the character set. -/
theorem test_puta_charset :
    after (exec (.puta .a0 2 8) (staging [0x41, 0x42, 0x5F, 0x43] ssid)) errors =
      some (some (4, 0x40000208), 2, 0) := by decide +kernel

/-- 41_fixed_fields.md R164, example: `GETA 1, 2, 8`. -/
theorem test_geta :
    after (exec (.geta .a1 2 8)
      (holding .a1 (some .ssid) [0x58, 0x20, 0x41, 0x42, 0x43, 0x2F, 0x31, 0x20, 0x20, 0x20] start)) (fun t =>
      (t.readBytes .fld 0 8, t.fldlen.toNat, t.nextOff.toNat)) =
      some ([0x41, 0x42, 0x43, 0x2F, 0x31, 0x20, 0x20, 0x20], 8, 10) := by decide +kernel

/-- N3: `PUTN 0, 44, 3` of 7. -/
theorem test_putn :
    after (exec (.putn .a0 44 3) { ssid with val := 7 }) (fun t => (t.readBytes .a0 43 5, t.nextOff.toNat)) =
      some ([0x20, 0x30, 0x30, 0x37, 0x20], 47) := by decide +kernel

/-- N2: the smallest value too large for 5 digits. -/
theorem test_putn_overflow :
    after (exec (.putn .a0 35 5) { ssid with val := 100000 }) errors = some (some (5, 0x48002305), 5, 0) := by
  decide +kernel

/-- 41_fixed_fields.md R167: "105" read as 105. -/
theorem test_getn :
    after (exec (.getn .a1 1 3) (holding .a1 (some .ssid) [0x58, 0x31, 0x30, 0x35] start)) (fun t =>
      (t.val.toNat, t.nextOff.toNat)) = some (105, 4) := by decide +kernel

/-- U1: `PUTU 0, 10, 2` of 0x1234, the most significant byte first. -/
theorem test_putu :
    after (exec (.putu .a0 10 2) { ssid with val := 0x1234 }) (fun t => (t.readBytes .a0 9 4, t.nextOff.toNat)) =
      some ([0x20, 0x12, 0x34, 0x20], 12) := by decide +kernel

/-- 41_fixed_fields.md R170, example: `GETU 1, 1, 2` of 00 14. -/
theorem test_getu :
    after (exec (.getu .a1 1 2) (holding .a1 (some .auch) [0x41, 0x00, 0x14] start)) (fun t =>
      (t.val.toNat, t.nextOff.toNat)) = some (20, 3) := by decide +kernel

/-! ## Variable fields -/

/-- 42_variable_fields.md R192, example: `PUTT 0, 3` of "OK" moves the terminator up by 2. -/
theorem test_putt :
    after (exec (.putt .a0 3) (staging [0x4F, 0x4B] (holding .a0 (some .esid) esidEmpty start))) (fun t =>
      (t.readBytes .a0 0 9, t.len0.toNat, t.nextOff.toNat)) = some (esid, 9, 8) := by decide +kernel

/-- T16: a new length above `DEBSIZE`. -/
theorem test_putt_ceiling :
    after (exec (.putt .a1 3) (staging [0x41, 0x42, 0x43, 0x44]
      { holding .a1 (some .esid) esidEmpty start with debsize := 10 })) (fun t => (errors t, t.len1.toNat)) =
      some ((some (7, 0x5A000300), 11, 0), 7) := by decide +kernel

/-- 42_variable_fields.md R193, example: `GETT 1, 3`. -/
theorem test_gett :
    after (exec (.gett .a1 3) (holding .a1 (some .esid) esid start)) (fun t =>
      (t.readBytes .fld 0 2, t.fldlen.toNat, t.nextOff.toNat)) = some ([0x4F, 0x4B], 2, 8) := by decide +kernel

/-- B2: `PUTB` of nothing shrinks the command. -/
theorem test_putb :
    after (exec (.putb .a1 1) (holding .a1 (some .auch) auch start)) (fun t =>
      (t.readBytes .a1 0 5, t.len1.toNat, t.nextOff.toNat)) =
      some ([0x41, 0x00, 0x00, 0x58, 0x59], 5, 3) := by decide +kernel

/-- B3: `GETB 1, 1`. -/
theorem test_getb :
    after (exec (.getb .a1 1) (holding .a1 (some .auch) auch start)) (fun t =>
      (t.readBytes .fld 0 3, t.fldlen.toNat, t.nextOff.toNat)) = some ([0xDE, 0xAD, 0xBE], 3, 6) := by decide +kernel

/-! ## Codec -/

/-- The chunk of vector K1. -/
def chunkK1 : List Byte := [0x41, 0x42, 0x42, 0x42, 0x42, 0x42, 0x42, 0x43, 0x43]

/-- K1: `RLENC 0`. -/
theorem test_rlenc :
    after (exec (.rlenc .a0) (chunk chunkK1 true (holding .a0 (some .data) [0x44] start))) (fun t =>
      (t.readBytes .a0 0 8, t.len0.toNat, t.fpos.toNat, t.codec.fdone)) = some (dataCommand, 8, 9, true) := by
  decide +kernel

/-- K14: no room for the rest of the chunk. -/
theorem test_rlenc_ceiling :
    after (exec (.rlenc .a0) (chunk [0x41, 0x42, 0x43, 0x44, 0x45, 0x46, 0x47, 0x48] true
      { holding .a0 (some .data) [0x44] start with debsize := 6 })) (fun t =>
      (t.readBytes .a0 1 5, t.len0.toNat, t.fpos.toNat, t.codec.fdone)) =
      some ([0x04, 0x41, 0x42, 0x43, 0x44], 6, 4, false) := by decide +kernel

/-- R1: `RLDEC 1`, the inverse of K1. -/
theorem test_rldec :
    after (exec (.rldec .a1) (holding .a1 (some .data) dataCommand start)) (fun t =>
      (t.readBytes .fbuf 0 9, t.flen.toNat, t.dpos.toNat, t.readReg .codec)) =
      some (chunkK1, 9, 8, 0b10011) := by decide +kernel

/-- R13: a truncated sub-record after a good one. -/
theorem test_rldec_subrec :
    after (exec (.rldec .a1) (holding .a1 (some .data) [0x44, 0x01, 0x41, 0x45] start)) (fun t =>
      (errors t, t.readByte .fbuf 0, t.flen.toNat, t.dpos.toNat, t.readReg .codec)) =
      some ((some (9, 0x86000000), 3, 0), 0x41, 1, 3, 0) := by decide +kernel

/-- X1: `RLEOS` with no sub-record decoded. -/
theorem test_rleos : after (exec .rleos start) errors = some (some (8, 0x88000000), 0, 0) := by decide +kernel

/-- X7: `RLINIT` leaves `DPOS`. -/
theorem test_rlinit :
    after (exec .rlinit { start with codec := ⟨true, true, true, true, true⟩, fpos := 5, flen := 9, dpos := 7 })
      (fun t => (t.readReg .codec, t.fpos.toNat, t.flen.toNat, t.dpos.toNat)) = some (0, 0, 0, 7) := by
  decide +kernel

/-! ## Credit -/

/-- Q1: `CRINIT` with 999. -/
theorem test_crinit :
    after (exec .crinit { start with credmax := 999 }) (fun t => (t.credit.toNat, t.readReg .status)) =
      some (999, 0) := by decide +kernel

/-- The take from 1 to 0 succeeds and sets `CZ` (44_credit.md R242). -/
theorem test_crtake :
    after (exec .crtake { start with credit := 1 }) (fun t => (t.credit.toNat, t.readReg .status)) =
      some (0, 2) := by decide +kernel

/-- Y3: the take at 0 is refused. -/
theorem test_crtake_at_zero :
    after (exec .crtake start) (fun t => (t.readReg .err, t.credit.toNat, t.readReg .status)) =
      some (0xA40000000000000A, 0, 3) := by decide +kernel

/-- Q6: `CRGRANT` while the window is open. -/
theorem test_crgrant :
    after (exec .crgrant { start with credmax := 2, credit := 1 }) (fun t => (errors t, t.credit.toNat)) =
      some ((some (10, 0xA8000000), 1, 0), 1) := by decide +kernel

/-! ## The host port -/

/-- Y7: a host write to an arena byte ends the view. -/
theorem test_byte_write_ends_the_view :
    after (serve (.write 8 0x40000 0x58) ssid) (fun t => (t.kind0, t.len0.toNat)) = some (none, 61) := by
  decide +kernel

/-- Y9: a host write of `LEN1` above `BUF_CAP` has no effect, the view's end included. -/
theorem test_large_length_is_ignored :
    after (serve (.write 64 0x58 100000) failed) (fun t => (t.len1.toNat, t.kind1)) = some (8, some .data) := by
  decide +kernel

/-- The written-out word of `CRINIT` runs as the first access after reset. -/
theorem test_first_step : after (step ({ State.reset with credmax := 3 }.withFetchWord 32 0xA0000000)) (fun t =>
    (t.credit.toNat, t.pending)) = some (3, []) := by decide +kernel

/-- A host read answers the register (Y11). -/
theorem test_read_status :
    after (step { State.reset with pending := [.read 64 0x10] }) (fun t => t.reply) = some (some 2) := by
  decide +kernel

/-- A byte nothing has written reads the same before and after `SRESET` (93_implementation_defined.md U1). -/
theorem test_sreset_does_not_redraw :
    (out (step (start.withFetchWord 32 0x04000000))).readByte .a1 5 = start.readByte .a1 5 := rfl

/-! ## States that meet the hypotheses of the statements, clause by clause

`witness_<n>…` is for the n-th statement of OBLIGATIONS.json. -/

/-- The widest field at the highest offset. -/
theorem witness_2 : (Instr.puta .a1 131071 255).wellFormed = true := by decide

theorem witness_3_and_4 : decode 0x460002FF = .ok (.geta .a1 2 255) := by decide +kernel

/-- Each of the four cases, and a legal value. -/
theorem witness_5 :
    start.err = none ∧ IllegalValue 0x0000000100000000 ∧ IllegalValue 0xFFFFFFFF ∧ IllegalValue 0x06000000 ∧
      IllegalValue 0x48002314 ∧ ¬ IllegalValue 0x48002313 := by
  refine ⟨by decide +kernel, ?_, ?_, ?_, ?_, ?_⟩ <;>
  · unfold IllegalValue ReservedOpc NonzeroReserved OperandOutOfRange
    decide +kernel

/-- The oldest access is the word of `SRESET`, a host read, or missing. -/
theorem witness_6 :
    (start.withFetchWord 32 0x04000000).pending = .write 64 0x30 0x04000000 :: [] ∧
      (start.withFetchWord 32 0x04000000).err = none ∧ decode 0x04000000 = .ok .sreset ∧
      ({ start with pending := [.read 64 0x10] } : State).pending = .read 64 0x10 :: [] ∧
      start.pending = [] := by decide +kernel

theorem witness_7 :
    (failed.withFetchWord 32 0xA0000000).pending = .write 64 0x30 0xA0000000 :: [] ∧
      (failed.withFetchWord 32 0xA0000000).err ≠ none := by decide +kernel

/-- The invariant holds with an error recorded and a live view. -/
theorem witness_8_and_21 : failed.Inv ∧ failed.err ≠ none := by
  refine ⟨⟨by decide +kernel, fun a => ?_, by decide +kernel, by decide +kernel, by decide +kernel,
    by decide +kernel, by decide +kernel, by decide +kernel, by decide +kernel, by decide +kernel,
    fun a => ?_, fun sp => ?_⟩, by decide +kernel⟩
  · cases a <;> decide +kernel
  · cases a <;> decide +kernel
  · cases sp <;> decide +kernel

theorem witness_21_step :
    (failed.withFetchWord 32 0xA0000000).Inv ∧
      step (failed.withFetchWord 32 0xA0000000) = .next (out (step (failed.withFetchWord 32 0xA0000000))) := by
  obtain ⟨h, -⟩ := witness_8_and_21
  exact ⟨⟨h.1, h.2, h.3, h.4, h.5, h.6, h.7, h.8, h.9, h.10, h.11, fun sp => by cases sp <;> exact h.12 _⟩,
    out_next (by decide +kernel)⟩

theorem witness_9 :
    serve (.read 64 0xA0) ssid = .next (out (serve (.read 64 0xA0) ssid)) ∧ ssid.par.legal = true ∧
      99998 < Arena.a1.space.cap ssid.par :=
  ⟨out_next (by decide +kernel), by decide +kernel, by decide +kernel⟩

/-- The first and the last kind, and no live view. -/
theorem witness_10 :
    (holding .a0 (some .ssrm) [0x49] start).kind .a0 = some .ssrm ∧
      (holding .a1 (some .aurp) [0x53] start).kind .a1 = some .aurp ∧ start.kind .a0 = none := by
  decide +kernel

/-- The last register and the last byte of each buffer have a meaning, what follows them has none. -/
theorem witness_11 :
    start.par.legal = true ∧ Meaningful start.par 64 0xA0 ∧ ¬ Meaningful start.par 64 0xA8 ∧
      Meaningful start.par 8 (0x20000 + 65534) ∧ ¬ Meaningful start.par 8 (0x20000 + 65535) ∧
      Meaningful start.par 8 (0x80000 + 99998) ∧ ¬ Meaningful start.par 8 0x9FFFF ∧
      ¬ Meaningful start.par 32 0 := by
  refine ⟨by decide +kernel, ?_, ?_, ?_, ?_, ?_, ?_, ?_⟩ <;>
  · unfold Meaningful
    decide +kernel

theorem witness_12 :
    ssid.par.legal = true ∧ (99999 : RegWord).toNat ≤ ssid.par.bufCap ∧
      ssid.par.bufCap < (100000 : RegWord).toNat := by decide +kernel

/-- The last byte of an arena and of `FLD`; `FLD` is no arena. -/
theorem witness_13 :
    ssid.par.legal = true ∧ 99998 < Arena.a0.space.cap ssid.par ∧ 65534 < Space.fld.cap ssid.par ∧
      (∀ a : Arena, Space.fld ≠ a.space) := by
  refine ⟨by decide +kernel, by decide +kernel, by decide +kernel, fun a => ?_⟩
  cases a <;> decide

theorem witness_14 :
    (0 : RegWord).toNat = 0 ∧ start.par.bufCap < (100000 : RegWord).toNat ∧
      start.par.fbufCap < (100000 : RegWord).toNat := by decide +kernel

theorem witness_15 :
    start.par.legal = true ∧ 1 ≤ (99999 : RegWord).toNat ∧ (99999 : RegWord).toNat ≤ start.par.bufCap ∧
      (99999 : RegWord).toNat ≤ start.par.fbufCap := by decide +kernel

theorem witness_19 : failed.par.legal = true := by decide +kernel

/-- The operation of `test_puta_charset`. -/
theorem witness_23_unchanged :
    let s := staging [0x41, 0x42, 0x5F, 0x43] ssid
    s.par.legal = true ∧ s.err = none ∧ exec (.puta .a0 2 8) s = .next (out (exec (.puta .a0 2 8) s)) ∧
      (out (exec (.puta .a0 2 8) s)).err = some ⟨.charset, 0x40000208⟩ :=
  ⟨by decide +kernel, by decide +kernel, out_next (by decide +kernel), by decide +kernel⟩

/-- The operation of `test_rldec_subrec`. -/
theorem witness_23_subrec :
    let s := holding .a1 (some .data) [0x44, 0x01, 0x41, 0x45] start
    s.par.legal = true ∧ s.err = none ∧ exec (.rldec .a1) s = .next (out (exec (.rldec .a1) s)) ∧
      (out (exec (.rldec .a1) s)).err = some ⟨.subrec, 0x86000000⟩ :=
  ⟨by decide +kernel, by decide +kernel, out_next (by decide +kernel), by decide +kernel⟩

/-- C22: the dump is cut at 256. -/
theorem witness_24_check :
    let s := holding .a1 none (0x49 :: List.replicate 300 0x20 ++ [0x0D]) start
    s.err = none ∧ exec (.check .a1 none) s = .next (out (exec (.check .a1 none) s)) ∧
      (out (exec (.check .a1 none) s)).err = some ⟨.len, 0x2600001F⟩ ∧ s.len .a1 = 302 :=
  ⟨by decide +kernel, out_next (by decide +kernel), by decide +kernel, by decide +kernel⟩

theorem witness_24_other :
    start.err = none ∧ exec .crtake start = .next (out (exec .crtake start)) ∧
      (out (exec .crtake start)).err = some ⟨.credit, 0xA4000000⟩ ∧ (∀ a e, Instr.crtake ≠ .check a e) :=
  ⟨by decide +kernel, out_next (by decide +kernel), by decide +kernel, fun _ _ h => by cases h⟩

theorem witness_24_code :
    let s := out (exec .crtake start)
    s.err = some ⟨.credit, 0xA4000000⟩ ∧ (s.readReg .err).toNat = 10 + 2 ^ 32 * 0xA4000000 := by
  decide +kernel

/-- A malformed `CHECK` word. -/
theorem witness_24_illegal :
    ssid.err = none ∧ IllegalValue 0x2600001E ∧ writeOp 0x2600001E ssid = .next (out (writeOp 0x2600001E ssid)) := by
  refine ⟨by decide +kernel, ?_, out_next (by decide +kernel)⟩
  unfold IllegalValue ReservedOpc NonzeroReserved OperandOutOfRange
  decide +kernel

/-- An operation that completes, one that raises, a `CHECK` of a command that is no Data command, and
operations that store to a buffer and to none. -/
theorem witness_25 :
    let check := Instr.check .a0 none
    let put := Instr.puta .a0 1 60
    let get := Instr.geta .a0 1 61
    (ssid.err = none ∧ ssid.par.legal = true) ∧
    (exec check ssid = .next (out (exec check ssid)) ∧ (out (exec check ssid)).kind .a0 ≠ some .data ∧
      storedRange check ssid (out (exec check ssid)) = none) ∧
    (exec put ssid = .next (out (exec put ssid)) ∧ (out (exec put ssid)).err = none ∧
      storedRange put ssid (out (exec put ssid)) = some (.a0, 1, 60)) ∧
    (exec get ssid = .next (out (exec get ssid)) ∧ (out (exec get ssid)).err ≠ none) ∧
    (∀ a, put ≠ .rldec a ∧ put ≠ .rlenc a ∧ get ≠ .rldec a) ∧ put ≠ .rlinit ∧ put ≠ .sreset ∧ get ≠ .sreset := by
  refine ⟨by decide +kernel, ⟨out_next (by decide +kernel), by decide +kernel, by decide +kernel⟩,
    ⟨out_next (by decide +kernel), by decide +kernel, by decide +kernel⟩,
    ⟨out_next (by decide +kernel), by decide +kernel⟩, fun a => ⟨?_, ?_, ?_⟩, by decide, by decide, by decide⟩ <;>
  · intro h
    cases h

theorem witness_26 :
    let s := holding .a1 none dataCommand start
    let x := opWrite 0x2600001F
    serve x s = .next (out (serve x s)) ∧ (out (serve x s)).kind .a1 = some .data ∧
      s.kind .a1 ≠ some .data :=
  ⟨out_next (by decide +kernel), by decide +kernel, by decide +kernel⟩

theorem witness_28 : ssid.par.legal = true ∧ failed.par.legal = true ∧ failed.err ≠ none := by decide +kernel

/-- A kind with a terminator; a kind of one byte; a kind that does not exist in V1. -/
theorem witness_29 :
    start.par.legal = true ∧ start.layout .ssid = some ⟨true, 61, true⟩ ∧
      start.layout .data = some ⟨false, 1, false⟩ ∧ State.reset.par.legal = true ∧
      State.reset.layout .nerp = none := by decide +kernel

/-- C13: a fixed kind with the other terminator, for the kind and for `ANY`. -/
theorem witness_30_fixed :
    let s := holding .a1 none [0x46, 0x20, 0x20, 0x8D] State.reset
    s.par.legal = true ∧ s.layout .esid = some ⟨true, 4, true⟩ ∧ 1 ≤ s.len .a1 ∧
      Config.signatures[Kind.esid.number]? = some (s.readByte .a1 0) ∧ s.len .a1 = 4 ∧
      s.readByte .a1 (s.len .a1 - 1) = 0x8D := by decide +kernel

/-- C20: a Data command exactly at the ceiling. -/
theorem witness_30_variable :
    let s := { holding .a1 none dataCommand start with debsize := 8 }
    s.par.legal = true ∧ s.layout .data = some ⟨false, 1, false⟩ ∧ 1 ≤ s.len .a1 ∧
      Config.signatures[Kind.data.number]? = some (s.readByte .a1 0) ∧ 1 ≤ s.len .a1 ∧
      s.len .a1 ≤ s.debsize.toNat := by decide +kernel

/-- C9, C5, C7 and C6: the expected kind not in this version, the empty buffer, the wrong signature, no
signature. -/
theorem witness_31_before_the_layout :
    State.reset.par.legal = true ∧ State.reset.layout .nerp = none ∧
      start.layout .cdt ≠ none ∧ start.len .a1 = 0 ∧
      (let s := holding .a1 none [0x43, 0x20, 0x20] start
    s.layout .cd ≠ none ∧ 1 ≤ s.len .a1 ∧ Config.signatures[Kind.cd.number]? ≠ some (s.readByte .a1 0)) ∧
      (let s := holding .a1 none [0x5A, 0x20, 0x20] start
      1 ≤ s.len .a1 ∧ s.readByte .a1 0 ∉ Config.signatures) := by decide +kernel

/-- C21, C3, C19 and C14: the kind found not in this version, a fixed and a variable length out of range, the
terminator. -/
theorem witness_31_from_the_layout :
    (let s := holding .a1 none [0x4A] State.reset
    1 ≤ s.len .a1 ∧ Config.signatures[Kind.secd.number]? = some (s.readByte .a1 0) ∧
      s.layout .secd = none) ∧
    (let s := holding .a1 none [0x43, 0x20, 0x20, 0x20] start
    Config.signatures[Kind.cdt.number]? = some (s.readByte .a1 0) ∧
      s.layout .cdt = some ⟨true, 3, false⟩ ∧ ¬ s.len .a1 = 3) ∧
    (let s := { holding .a1 none dataCommand start with debsize := 7 }
    Config.signatures[Kind.data.number]? = some (s.readByte .a1 0) ∧
      s.layout .data = some ⟨false, 1, false⟩ ∧ ¬ (1 ≤ s.len .a1 ∧ s.len .a1 ≤ s.debsize.toNat)) ∧
    (let s := holding .a1 none [0x46, 0x20, 0x20, 0x20] State.reset
    Config.signatures[Kind.esid.number]? = some (s.readByte .a1 0) ∧
      s.layout .esid = some ⟨true, 4, true⟩ ∧ s.len .a1 = 4 ∧
      s.readByte .a1 (s.len .a1 - 1) ≠ 0x0D ∧ s.readByte .a1 (s.len .a1 - 1) ≠ 0x8D) := by decide +kernel

theorem witness_32 :
    let s := holding .a1 none [0x46, 0x20, 0x20, 0x20] State.reset
    s.par.legal = true ∧ s.err = none ∧ 1 ≤ s.len .a1 ∧ s.layout .esid ≠ none ∧
      Config.signatures[Kind.esid.number]? = some (s.readByte .a1 0) := by decide +kernel

/-- A fixed kind, and a variable kind whose blank command is exactly at the ceiling. -/
theorem witness_33 :
    (start.par.legal = true ∧ start.err = none ∧ start.layout .cdt = some ⟨true, 3, false⟩ ∧
      exec (.new .a0 .cdt) start = .next (out (exec (.new .a0 .cdt) start))) ∧
    (let s := { start with debsize := 7 }
    s.err = none ∧ s.layout .esid = some ⟨false, 7, true⟩ ∧ 7 ≤ s.debsize.toNat ∧
      exec (.new .a0 .esid) s = .next (out (exec (.new .a0 .esid) s))) :=
  ⟨⟨by decide +kernel, by decide +kernel, by decide +kernel, out_next (by decide +kernel)⟩,
    ⟨by decide +kernel, by decide +kernel, by decide +kernel, out_next (by decide +kernel)⟩⟩

/-- A13: a field that ends one byte beyond the command. -/
theorem witness_35_to_46_field_tests :
    start.kind .a0 = none ∧ ssid.kind .a0 ≠ none ∧ ssid.len .a0 < (60 : BitVec 17).toNat + (2 : BitVec 8).toNat ∧
      ssid.len .a0 < (59 : BitVec 17).toNat + 3 ∧ ssid.len .a0 < (60 : BitVec 17).toNat + 2 := by decide +kernel

/-- A field up to the command's last byte; A4; A6. -/
theorem witness_35 :
    (let s := staging [0x41, 0x62] ssid
    s.kind .a0 ≠ none ∧ (58 : BitVec 17).toNat + (3 : BitVec 8).toNat ≤ s.len .a0 ∧
      s.fldlen.toNat ≤ (3 : BitVec 8).toNat ∧ ∀ i, i < s.fldlen.toNat → okChar (norm (s.readByte .fld i)) = true) ∧
    (4 : BitVec 8).toNat < (staging [0x41, 0x42, 0x43, 0x44, 0x45] ssid).fldlen.toNat ∧
    (let s := staging [0x41, 0x42, 0x5F, 0x43] ssid
    s.fldlen.toNat ≤ (8 : BitVec 8).toNat ∧ 2 < s.fldlen.toNat ∧ okChar (norm (s.readByte .fld 2)) = false ∧
      ∀ j, j < 2 → okChar (norm (s.readByte .fld j)) = true) := by decide +kernel

theorem witness_36 :
    ssid.kind .a0 ≠ none ∧ (1 : BitVec 17).toNat + (60 : BitVec 8).toNat ≤ ssid.len .a0 ∧
      (∀ i, i < (59 : BitVec 8).toNat → okChar (norm (ssid.readByte .a0 (1 + i))) = true) ∧
      okChar (norm (ssid.readByte .a0 (1 + 59))) = false := by decide +kernel

/-- N7 and N8: the largest value of 19 digits and the next. -/
theorem witness_37 :
    ssid.kind .a0 ≠ none ∧ (1 : BitVec 17).toNat + (19 : BitVec 8).toNat ≤ ssid.len .a0 ∧
      (9999999999999999999 : BitVec 64).toNat < 10 ^ (19 : BitVec 8).toNat ∧
      10 ^ (19 : BitVec 8).toNat ≤ (10000000000000000000 : BitVec 64).toNat := by decide +kernel

theorem witness_38 :
    let s := holding .a1 (some .ssid) [0x58, 0x31, 0x30, 0x35, 0x20] start
    s.kind .a1 ≠ none ∧ (1 : BitVec 17).toNat + (4 : BitVec 8).toNat ≤ s.len .a1 ∧ (4 : BitVec 8).toNat ≤ 19 ∧
      (∀ i, i < (3 : BitVec 8).toNat → isDigit (s.readByte .a1 (1 + i)) = true) ∧
      isDigit (s.readByte .a1 (1 + 3)) = false := by decide +kernel

/-- U6: the largest value of 4 bytes, and the next. -/
theorem witness_39 :
    ssid.kind .a0 ≠ none ∧ (10 : BitVec 17).toNat + (4 : BitVec 8).toNat ≤ ssid.len .a0 ∧
      (0xFFFFFFFF : BitVec 64).toNat < 256 ^ (4 : BitVec 8).toNat ∧
      256 ^ (4 : BitVec 8).toNat ≤ (0x100000000 : BitVec 64).toNat := by decide +kernel

theorem witness_40 :
    ssid.kind .a0 ≠ none ∧ (57 : BitVec 17).toNat + (4 : BitVec 8).toNat ≤ ssid.len .a0 ∧
      (4 : BitVec 8).toNat ≤ 4 := by decide +kernel

theorem witness_41 :
    let s := { ssid with val := 0x1234 }
    s.err = none ∧
    ((Instr.putn .a0 10 4).wellFormed = true ∧ exec (.putn .a0 10 4) s = .next (out (exec (.putn .a0 10 4) s)) ∧
      (out (exec (.putn .a0 10 4) s)).err = none) ∧
    ((Instr.putu .a0 10 4).wellFormed = true ∧ exec (.putu .a0 10 4) s = .next (out (exec (.putu .a0 10 4) s)) ∧
      (out (exec (.putu .a0 10 4) s)).err = none) :=
  ⟨by decide +kernel, ⟨by decide, out_next (by decide +kernel), by decide +kernel⟩,
    ⟨by decide, out_next (by decide +kernel), by decide +kernel⟩⟩

theorem witness_42 :
    let s := holding .a1 (some .ssid) [0x58, 0x30, 0x30, 0x35] start
    (Instr.getn .a1 1 3).wellFormed = true ∧ s.err = none ∧
      exec (.getn .a1 1 3) s = .next (out (exec (.getn .a1 1 3) s)) ∧ (out (exec (.getn .a1 1 3) s)).err = none :=
  ⟨by decide, by decide +kernel, out_next (by decide +kernel), by decide +kernel⟩

/-- T17: the new length exactly at the ceiling. -/
theorem witness_43_installs :
    let s := staging [0x41, 0x42, 0x43] { holding .a1 (some .esid) esidEmpty start with debsize := 10 }
    s.kind .a1 ≠ none ∧ (3 : BitVec 17).toNat + 3 ≤ s.len .a1 ∧ TextPrefix s .a1 (3 : BitVec 17).toNat 0 ∧
      (3 : BitVec 17).toNat + 3 + 0 ≤ s.len .a1 ∧ s.fldlen.toNat ≤ 999 ∧
      s.len .a1 - 0 + s.fldlen.toNat ≤ s.debsize.toNat :=
  ⟨by decide +kernel, by decide +kernel, ⟨0, 0, 0, by decide +kernel⟩, by decide +kernel, by decide +kernel,
    by decide +kernel⟩

/-- T10, T12, T14 and T16. -/
theorem witness_43_raises :
    (let s := holding .a1 (some .esid) [0x46, 0x20, 0x20, 0x30, 0x41, 0x30, 0x0D] start
    s.kind .a1 ≠ none ∧ 3 + 3 ≤ s.len .a1 ∧ isDigit (s.readByte .a1 (3 + 1)) = false ∧
      ∀ m, m < 1 → isDigit (s.readByte .a1 (3 + m)) = true) ∧
    (let s := holding .a1 (some .esid) [0x46, 0x20, 0x20, 0x30, 0x30, 0x39, 0x4F, 0x4B, 0x0D] start
    TextPrefix s .a1 3 9 ∧ s.len .a1 < 3 + 3 + 9) ∧
    (let s := { holding .a1 (some .esid) esidEmpty start with fldlen := 1000 }
    TextPrefix s .a1 3 0 ∧ 3 + 3 + 0 ≤ s.len .a1 ∧ 999 < s.fldlen.toNat) ∧
    (let s := staging [0x41, 0x42, 0x43, 0x44] { holding .a1 (some .esid) esidEmpty start with debsize := 10 }
    TextPrefix s .a1 3 0 ∧ 3 + 3 + 0 ≤ s.len .a1 ∧ s.fldlen.toNat ≤ 999 ∧
      s.debsize.toNat < s.len .a1 - 0 + s.fldlen.toNat) :=
  ⟨by decide +kernel, ⟨⟨0, 0, 9, by decide +kernel⟩, by decide +kernel⟩,
    ⟨⟨0, 0, 0, by decide +kernel⟩, by decide +kernel, by decide +kernel⟩,
    ⟨⟨0, 0, 0, by decide +kernel⟩, by decide +kernel, by decide +kernel, by decide +kernel⟩⟩

/-- The example of R193, T10 and T11. -/
theorem witness_44 :
    (let s := holding .a1 (some .esid) esid start
    s.kind .a1 ≠ none ∧ 3 + 3 ≤ s.len .a1 ∧ TextPrefix s .a1 3 2 ∧ 3 + 3 + 2 ≤ s.len .a1) ∧
    (let s := holding .a1 (some .esid) [0x46, 0x20, 0x20, 0x30, 0x41, 0x30, 0x0D] start
    isDigit (s.readByte .a1 (3 + 1)) = false ∧ ∀ m, m < 1 → isDigit (s.readByte .a1 (3 + m)) = true) ∧
    (let s := holding .a1 (some .esid) [0x46, 0x20, 0x20, 0x30, 0x30, 0x39, 0x4F, 0x4B, 0x0D] start
    TextPrefix s .a1 3 9 ∧ s.len .a1 < 3 + 3 + 9) :=
  ⟨⟨by decide +kernel, by decide +kernel, ⟨0, 0, 2, by decide +kernel⟩, by decide +kernel⟩, by decide +kernel,
    ⟨⟨0, 0, 9, by decide +kernel⟩, by decide +kernel⟩⟩

/-- A body that ends with the command at its ceiling, then B5 and B8. -/
theorem witness_45 :
    (let s := staging [0x01] { holding .a1 (some .auch) [0x41, 0x00, 0x00] start with debsize := 4 }
    s.kind .a1 ≠ none ∧ 1 + 2 ≤ s.len .a1 ∧ BinaryPrefix s .a1 1 0 ∧ 1 + 2 + 0 ≤ s.len .a1 ∧
      s.len .a1 - 0 + s.fldlen.toNat ≤ s.debsize.toNat) ∧
    (let s := holding .a1 (some .auch) [0x41, 0x20, 0x20] start
    BinaryPrefix s .a1 1 8224 ∧ s.len .a1 < 1 + 2 + 8224) ∧
    (let s := { holding .a1 (some .auch) [0x41, 0x00, 0x00] start with debsize := 9, fldlen := 7 }
    BinaryPrefix s .a1 1 0 ∧ 1 + 2 + 0 ≤ s.len .a1 ∧ s.debsize.toNat < s.len .a1 - 0 + s.fldlen.toNat) := by
  unfold BinaryPrefix
  decide +kernel

/-- The example of R195 and B6. -/
theorem witness_46 :
    (let s := holding .a1 (some .auch) auch start
    s.kind .a1 ≠ none ∧ 1 + 2 ≤ s.len .a1 ∧ BinaryPrefix s .a1 1 3 ∧ 1 + 2 + 3 ≤ s.len .a1) ∧
    (let s := holding .a1 (some .auch) [0x41, 0x00, 0x04, 0xDE, 0xAD] start
    BinaryPrefix s .a1 1 4 ∧ s.len .a1 < 1 + 2 + 4) := by
  unfold BinaryPrefix
  decide +kernel

/-- Both fields end before the last byte of the command. -/
theorem witness_47_and_48_text :
    let s := staging [0x41] (holding .a1 (some .esid) esid start)
    s.err = none ∧ TextPrefix s .a1 3 2 ∧ 3 + 3 + 2 < s.len .a1 ∧
      exec (.putt .a1 3) s = .next (out (exec (.putt .a1 3) s)) ∧ (out (exec (.putt .a1 3) s)).err = none :=
  ⟨by decide +kernel, ⟨0, 0, 2, by decide +kernel⟩, by decide +kernel, out_next (by decide +kernel),
    by decide +kernel⟩

theorem witness_47_and_48_binary :
    let s := staging [0x41] (holding .a1 (some .auch) auch start)
    s.err = none ∧ BinaryPrefix s .a1 1 3 ∧ 1 + 2 + 3 < s.len .a1 ∧
      exec (.putb .a1 1) s = .next (out (exec (.putb .a1 1) s)) ∧ (out (exec (.putb .a1 1) s)).err = none := by
  refine ⟨by decide +kernel, ?_, by decide +kernel, out_next (by decide +kernel), by decide +kernel⟩
  unfold BinaryPrefix
  decide +kernel

/-- K1, K14 and K11: a chunk taken whole, one cut at the ceiling, one of no bytes that ends a record. -/
theorem witness_50 :
    (let s := chunk chunkK1 true (holding .a0 (some .data) [0x44] start)
    s.kind .a0 = some .data ∧ s.fpos.toNat ≤ s.flen.toNat) ∧
    (let s := chunk chunkK1 true { holding .a0 (some .data) [0x44] start with debsize := 6 }
    s.kind .a0 = some .data ∧ s.fpos.toNat ≤ s.flen.toNat ∧
      (out (exec (.rlenc .a0) s)).fpos.toNat < s.flen.toNat) ∧
    (let s := chunk [] true { holding .a0 (some .data) [0x44] start with debsize := 2 }
    s.kind .a0 = some .data ∧ s.flen = 0 ∧ s.codec.feor = true ∧ s.len .a0 + 1 ≤ s.debsize.toNat) := by
  decide +kernel

/-- K6 at the ceiling: the longest run. -/
theorem witness_51 :
    let s := chunk (List.replicate 63 0x00) false { holding .a0 (some .data) [0x44] start with debsize := 3 }
    s.kind .a0 = some .data ∧ s.ctrl.cmpen = true ∧ 5 ≤ 63 ∧ s.flen.toNat = s.fpos.toNat + 63 ∧
      s.len .a0 + 2 ≤ s.debsize.toNat ∧ ∀ j, j < 63 → s.readByte .fbuf (s.fpos.toNat + j) = 0x00 := by
  decide +kernel

theorem witness_52 :
    let s := chunk chunkK1 true (holding .a0 (some .data) [0x44] start)
    s.par.legal = true ∧ s.err = none ∧ s.kind .a0 = some .data ∧ 1 ≤ s.len .a0 ∧ s.fpos.toNat ≤ s.flen.toNat ∧
      s.flen.toNat ≤ s.par.fbufCap ∧ exec (.rlenc .a0) s = .next (out (exec (.rlenc .a0) s)) :=
  ⟨by decide +kernel, by decide +kernel, by decide +kernel, by decide +kernel, by decide +kernel,
    by decide +kernel, out_next (by decide +kernel)⟩

/-- R8 (the end), R10 (an end of record), R14 (`FBUF` full) and R13 (a truncated sub-record). -/
theorem witness_53 :
    (let s := holding .a1 (some .data) [0x44, 0x43, 0x5A] start
    let rs := [⟨false, true, 3, [0x5A]⟩]
    s.par.legal = true ∧ s.kind .a1 = some .data ∧ 1 ≤ s.dpos.toNat ∧ s.dpos.toNat ≤ s.len .a1 ∧
      s.flen.toNat + (values rs).length ≤ s.par.fbufCap ∧ rs.all (fun r => SubRec.valid r && !r.eor) = true ∧
      s.readBytes .a1 s.dpos.toNat (s.len .a1 - s.dpos.toNat) = wires rs ++ []) ∧
    (let s := holding .a1 (some .data) [0x44, 0x81, 0x41, 0x01, 0x42] start
    let r : SubRec := ⟨true, false, 1, [0x41]⟩
    s.readBytes .a1 s.dpos.toNat (s.len .a1 - s.dpos.toNat) = wires [] ++ (SubRec.wire r ++ [0x01, 0x42]) ∧
      SubRec.valid r = true ∧ r.eor = true ∧ s.flen.toNat + r.count ≤ s.par.fbufCap) ∧
    (let s := { holding .a1 (some .data) [0x44, 0x7F, 0x00, 0x01, 0x41] start with
      par := { Config.params with fbufCap := 63 } }
    let rs := [⟨false, true, 63, [0x00]⟩]
    let r : SubRec := ⟨false, false, 1, [0x41]⟩
    s.par.legal = true ∧ s.flen.toNat + (values rs).length ≤ s.par.fbufCap ∧
      s.readBytes .a1 s.dpos.toNat (s.len .a1 - s.dpos.toNat) = wires rs ++ (SubRec.wire r ++ []) ∧
      SubRec.valid r = true ∧ s.par.fbufCap < s.flen.toNat + (values rs).length + r.count) ∧
    (let s := holding .a1 (some .data) [0x44, 0x01, 0x41, 0x45] start
    let rs := [⟨false, false, 1, [0x41]⟩]
    s.readBytes .a1 s.dpos.toNat (s.len .a1 - s.dpos.toNat) = wires rs ++ [0x45] ∧
      ([] : List Byte).length < (if (0x45 : Byte).getLsbD 6 then 1 else (0x45 : Byte).toNat % 64)) := by
  decide +kernel

/-- X4, a read cursor above `FLEN`, and `DPOS` at 0 and one above `LEN1`. -/
theorem witness_50_and_53_codec_tests :
    start.kind .a0 ≠ some .data ∧
    (let s := { holding .a1 (some .data) dataCommand start with fpos := 1 }
    s.kind .a1 = some .data ∧ s.flen.toNat < s.fpos.toNat) ∧
    (let s := { holding .a1 (some .data) dataCommand start with dpos := 0 }
    s.kind .a1 = some .data ∧ s.dpos.toNat = 0) ∧
    (let s := { holding .a1 (some .data) dataCommand start with dpos := 9 }
    s.kind .a1 = some .data ∧ s.len .a1 < s.dpos.toNat) := by decide +kernel

theorem witness_54 :
    (out (exec (.rldec .a1) (holding .a1 (some .data) dataCommand start))).codec.lasteor = true ∧
      start.codec.lasteor = false := by decide +kernel

theorem witness_56_and_57 :
    0 < ({ start with credit := 1 } : State).credit.toNat ∧ start.credit.toNat = 0 ∧
      ({ start with credit := 1 } : State).credit.toNat ≠ 0 := by decide +kernel

/-- Two takes succeed and the third does not, after `CRINIT` and after `CRGRANT` alike (Q4). -/
theorem witness_58 :
    let s := { start with credmax := 2 }
    let xs := List.replicate 3 (opWrite 0xA4000000)
    s.err = none ∧
      (exec .crinit s = .next (out (exec .crinit s)) ∧ (out (exec .crinit s)).err = none) ∧
      (exec .crgrant s = .next (out (exec .crgrant s)) ∧ (out (exec .crgrant s)).err = none) ∧
      xs.all (fun x => !issues [.crinit, .crgrant] x) = true ∧ takes xs (out (exec .crinit s)) = 2 :=
  ⟨by decide +kernel, ⟨out_next (by decide +kernel), by decide +kernel⟩,
    ⟨out_next (by decide +kernel), by decide +kernel⟩, by decide +kernel, by decide +kernel⟩

theorem witness_59_and_60 :
    Instr.puta .a0 2 8 ∉ [Instr.crinit, .crtake, .crgrant, .sreset] ∧ Instr.puta .a0 2 8 ≠ .sreset ∧
      (∀ a k, Instr.puta .a0 2 8 ≠ .new a k) ∧ (∀ a e, Instr.puta .a0 2 8 ≠ .check a e) ∧
      exec (.puta .a0 2 8) (staging [0x41] ssid) = .next (out (exec (.puta .a0 2 8) (staging [0x41] ssid))) := by
  refine ⟨by decide, by decide, ?_, ?_, out_next (by decide +kernel)⟩
  · intro a k h
    cases h
  · intro a e h
    cases h

end Sys2Proof.Tests
end

section
/-! PROOFS of the scope family (00_scope.md R12, R13, 41_fixed_fields.md R161): every operation answers a next
state, and the character rule accepts exactly the stated bytes. -/

namespace Sys2Proof.Machine

/-! ## Every operation answers a next state (00_scope.md R12, 60_exceptions.md R270) -/

/-- The outcome is a next state: no fault and no refusal. -/
def Answers (o : Host.Outcome State Fault Refusal) : Prop := ∃ t, o = .next t

theorem answers_next (t : State) : Answers (.next t) := ⟨t, rfl⟩

theorem raise_answers (i : Instr) (e : ErrCode) (info : Nat) (s : State) : Answers (raise i e info s) :=
  answers_next _

theorem raiseCheck_answers (i : Instr) (a : Arena) (e : ErrCode) (info : Nat) (s : State) :
    Answers (raiseCheck i a e info s) :=
  answers_next _

theorem answers_ite {c : Prop} [Decidable c] {x y : Host.Outcome State Fault Refusal} (hx : Answers x)
    (hy : Answers y) : Answers (if c then x else y) := by
  split
  · exact hx
  · exact hy

/-! ### What the operations share -/

theorem inView_answers {i : Instr} {a : Arena} {stop : Nat} {s : State}
    {body : Host.Outcome State Fault Refusal} (hbody : Answers body) : Answers (inView i a stop s body) :=
  answers_ite (raise_answers ..) (answers_ite hbody (raise_answers ..))

theorem textField_answers {i : Instr} {a : Arena} {off : Nat} {s : State}
    {body : Nat → Host.Outcome State Fault Refusal} (hbody : ∀ n, Answers (body n)) :
    Answers (textField i a off s body) := by
  refine inView_answers ?_
  dsimp only
  split
  · exact raise_answers ..
  · exact answers_ite (hbody _) (raise_answers ..)

theorem binaryField_answers {i : Instr} {a : Arena} {off : Nat} {s : State}
    {body : Nat → Host.Outcome State Fault Refusal} (hbody : ∀ n, Answers (body n)) :
    Answers (binaryField i a off s body) :=
  inView_answers (answers_ite (hbody _) (raise_answers ..))

theorem installVariable_answers (i : Instr) (a : Arena) (off old : Nat) (pre body : List Byte) (s : State) :
    Answers (installVariable i a off old pre body s) :=
  answers_ite (answers_next _) (raise_answers ..)

/-! ### The operations with a case split of their own -/

theorem execNew_answers (a : Arena) (k : Kind) (s : State) : Answers (execNew a k s) := by
  unfold execNew
  split
  · exact raise_answers ..
  · exact answers_next _

theorem checkLayout_answers (i : Instr) (a : Arena) (k : Kind) (l : Layout) (s : State) :
    Answers (checkLayout i a k l s) :=
  answers_ite (answers_ite (raiseCheck_answers ..) (answers_next _)) (raiseCheck_answers ..)

theorem checkAny_answers (i : Instr) (a : Arena) (s : State) : Answers (checkAny i a s) := by
  refine answers_ite (raiseCheck_answers ..) ?_
  split
  · exact raiseCheck_answers ..
  · split
    · exact raiseCheck_answers ..
    · exact checkLayout_answers ..

theorem checkKind_answers (i : Instr) (a : Arena) (k : Kind) (s : State) : Answers (checkKind i a k s) := by
  unfold checkKind
  split
  · exact raiseCheck_answers ..
  · exact answers_ite (raiseCheck_answers ..)
      (answers_ite (checkLayout_answers ..) (raiseCheck_answers ..))

theorem execCheck_answers (a : Arena) (e : Option Kind) (s : State) : Answers (execCheck a e s) := by
  cases e with
  | none => exact checkAny_answers ..
  | some k => exact checkKind_answers ..

theorem execPuta_answers (a : Arena) (off : BitVec 17) (w : BitVec 8) (s : State) :
    Answers (execPuta a off w s) := by
  refine inView_answers (answers_ite ?_ (raise_answers ..))
  split
  · exact raise_answers ..
  · exact answers_next _

theorem execGeta_answers (a : Arena) (off : BitVec 17) (w : BitVec 8) (s : State) :
    Answers (execGeta a off w s) := by
  refine inView_answers ?_
  dsimp only
  split
  · exact raise_answers ..
  · exact answers_next _

theorem execGetn_answers (a : Arena) (off : BitVec 17) (w : BitVec 8) (s : State) :
    Answers (execGetn a off w s) := by
  refine inView_answers ?_
  dsimp only
  split
  · exact raise_answers ..
  · exact answers_next _

theorem execRlenc_answers (a : Arena) (s : State) : Answers (execRlenc a s) :=
  answers_ite (answers_ite (answers_next _) (raise_answers ..)) (raise_answers ..)

theorem execRldec_answers (a : Arena) (s : State) : Answers (execRldec a s) :=
  answers_ite (answers_ite (answers_ite (raise_answers ..) (answers_next _)) (raise_answers ..))
    (raise_answers ..)

/-- Every arm of the dispatch ends in a next state or in a raise, and a raise is a next state too. -/
theorem exec_answers (i : Instr) (s : State) : Answers (exec i s) := by
  cases i with
  | nop => exact answers_next _
  | sreset => exact answers_next _
  | new a k => exact execNew_answers a k s
  | check a e => exact execCheck_answers a e s
  | puta a off w => exact execPuta_answers a off w s
  | geta a off w => exact execGeta_answers a off w s
  | putn a off w => exact inView_answers (answers_ite (answers_next _) (raise_answers ..))
  | getn a off w => exact execGetn_answers a off w s
  | putu a off w => exact inView_answers (answers_ite (answers_next _) (raise_answers ..))
  | getu a off w => exact inView_answers (answers_next _)
  | putt a off =>
    exact textField_answers fun _ => answers_ite (installVariable_answers ..) (raise_answers ..)
  | gett a off => exact textField_answers fun _ => answers_next _
  | putb a off => exact binaryField_answers fun _ => installVariable_answers ..
  | getb a off => exact binaryField_answers fun _ => answers_next _
  | rlenc a => exact execRlenc_answers a s
  | rldec a => exact execRldec_answers a s
  | rleos => exact answers_ite (answers_next _) (raise_answers ..)
  | rlinit => exact answers_next _
  | crinit => exact answers_next _
  | crtake => exact answers_ite (answers_next _) (raise_answers ..)
  | crgrant => exact answers_ite (answers_next _) (raise_answers ..)

/-- Settles O22: each arm of `exec` answers, by the lemma of the operation it calls. -/
theorem everyOperationAnswersANextState : Obligations.EveryOperationAnswersANextState :=
  exec_answers

/-! ## The character rule (00_scope.md R13, 41_fixed_fields.md R161) -/

theorem isUpper_iff (b : Byte) : isUpper b = true ↔ 0x41 ≤ b.toNat ∧ b.toNat ≤ 0x5A := by
  simp [isUpper]

theorem isDigit_iff (b : Byte) : isDigit b = true ↔ 0x30 ≤ b.toNat ∧ b.toNat ≤ 0x39 := by
  simp [isDigit]

theorem isLower_iff (b : Byte) : isLower b = true ↔ 0x61 ≤ b.toNat ∧ b.toNat ≤ 0x7A := by
  simp [isLower]

theorem isPunct7_iff (b : Byte) :
    isPunct7 b = true ↔ b.toNat ∈ [0x20, 0x2F, 0x2D, 0x2E, 0x26, 0x28, 0x29] := by
  simp [isPunct7, ← BitVec.toNat_inj]

theorem okChar_iff (b : Byte) : okChar b = true ↔
    (0x41 ≤ b.toNat ∧ b.toNat ≤ 0x5A) ∨ (0x30 ≤ b.toNat ∧ b.toNat ≤ 0x39) ∨
      b.toNat ∈ [0x20, 0x2F, 0x2D, 0x2E, 0x26, 0x28, 0x29] := by
  simp only [okChar, Bool.or_eq_true, isUpper_iff, isDigit_iff, isPunct7_iff, or_assoc]

/-- Upper-casing subtracts 0x20 from a lower-case letter, which is large enough not to wrap. -/
theorem norm_toNat (b : Byte) :
    (norm b).toNat = if 0x61 ≤ b.toNat ∧ b.toNat ≤ 0x7A then b.toNat - 0x20 else b.toNat := by
  unfold norm
  simp only [isLower_iff]
  split
  · bv_omega
  · rfl

/-- What is not accepted among the 256 byte values is their complement. -/
theorem countP_not_acceptable :
    (List.range 256).countP (fun n => !acceptable (BitVec.ofNat 8 n)) =
      256 - (List.range 256).countP (fun n => acceptable (BitVec.ofNat 8 n)) := by
  have hsplit := List.length_eq_countP_add_countP (l := List.range 256)
    (fun n => acceptable (BitVec.ofNat 8 n))
  simp only [List.length_range, Bool.not_eq_true, Bool.decide_eq_false] at hsplit
  omega

theorem countP_okChar : (List.range 256).countP (fun n => okChar (BitVec.ofNat 8 n)) = 43 := by
  decide +kernel

theorem countP_acceptable : (List.range 256).countP (fun n => acceptable (BitVec.ofNat 8 n)) = 69 := by
  decide +kernel

/-- Settles O34: the tests of `okchar` as ranges of byte values, `norm` as a subtraction that does not wrap, and
the counts over the 256 byte values. -/
theorem characterRuleAcceptsExactlyTheStatedBytes : Obligations.CharacterRuleAcceptsExactlyTheStatedBytes :=
  ⟨okChar_iff, norm_toNat, countP_okChar, countP_acceptable, by rw [countP_not_acceptable, countP_acceptable]⟩

end Sys2Proof.Machine
end

section
/-! PROOFS of the state family, the host's side (10_state.md, 20_memory.md R71, R80): what an access reaches, what
a read answers and a write stores, and what each of them leaves unchanged. -/

namespace Sys2Proof.Machine

/-! ## What an access reaches (20_memory.md R71, R74) -/

@[simp] theorem locate_regOffset (p : Params) (r : Reg) : locate p 64 r.offset = .reg r := by cases r <;> rfl

/-- The ranges 00_scope.md R7 sets for the capacities, for legal parameters. -/
theorem Params.legal_caps {p : Params} (hp : p.legal = true) :
    (1 ≤ p.bufCap ∧ p.bufCap ≤ 131072) ∧ (63 ≤ p.fbufCap ∧ p.fbufCap ≤ 131072) := by
  simp only [Params.legal, Bool.and_eq_true, decide_eq_true_eq] at hp
  omega

theorem Space.cap_le_window {p : Params} (hp : p.legal = true) (sp : Space) : sp.cap p ≤ 0x20000 := by
  obtain ⟨⟨_, hb⟩, _, hf⟩ := Params.legal_caps hp
  cases sp
  · exact (by decide : 65535 ≤ 0x20000)
  · exact hb
  · exact hb
  · exact hf

theorem Reg.all_nodup : Reg.all.Nodup := by decide

/-- Register `n` of R21's order lies at offset `8 * n`. -/
theorem Reg.offset_of_getElem? {n : Nat} {r : Reg} (h : Reg.all[n]? = some r) : r.offset = 8 * n := by
  obtain ⟨hn, rfl⟩ := List.getElem?_eq_some_iff.1 h
  rw [Reg.offset, Reg.all_nodup.idxOf_getElem]

theorem locateReg_eq_reg {width offset : Nat} {r : Reg} (h : locateReg width offset = .reg r) :
    width = 64 ∧ offset = r.offset := by
  unfold locateReg at h
  split at h
  · cases h
  · rename_i hw
    split at h
    · cases h
    · rename_i ho
      split at h
      · rename_i r' hr
        cases h
        rw [Reg.offset_of_getElem? hr]
        omega
      · cases h

theorem locateByte_eq_byte {p : Params} {width i j : Nat} {sp sq : Space}
    (h : locateByte p width sp i = .byte sq j) : width = 8 ∧ sq = sp ∧ j = i ∧ i < sp.cap p := by
  unfold locateByte at h
  split at h
  · cases h
  · rename_i hw
    split at h
    · rename_i hi
      cases h
      exact ⟨by omega, rfl, rfl, hi⟩
    · cases h

theorem locateReg_ne_byte (width offset i : Nat) (sp : Space) : locateReg width offset ≠ .byte sp i := by
  unfold locateReg
  split
  · simp
  · split
    · simp
    · split <;> simp

theorem locateByte_ne_reg (p : Params) (width i : Nat) (sp : Space) (r : Reg) :
    locateByte p width sp i ≠ .reg r := by
  unfold locateByte
  split
  · simp
  · split <;> simp

/-- Everything an offset can lead to: the register region, the range of a buffer, or no meaning. -/
theorem locate_spec (p : Params) (width offset : Nat) :
    locate p width offset = locateReg width offset ∨
    (∃ sp i, locate p width offset = locateByte p width sp i) ∨
    locate p width offset = .refused .reservedOffset ∨
    locate p width offset = .fault .outsideWindow := by
  unfold locate
  split
  · exact .inl rfl
  · refine .inr ?_
    split
    · exact .inr (.inl rfl)
    · split
      · exact .inl ⟨_, _, rfl⟩
      · split
        · exact .inr (.inl rfl)
        · split
          · exact .inl ⟨_, _, rfl⟩
          · split
            · exact .inl ⟨_, _, rfl⟩
            · split
              · exact .inl ⟨_, _, rfl⟩
              · exact .inr (.inr rfl)

/-- An access that reaches a register is a 64-bit one at the register's offset. -/
theorem locate_eq_reg {p : Params} {width offset : Nat} {r : Reg} (h : locate p width offset = .reg r) :
    width = 64 ∧ offset = r.offset := by
  rcases locate_spec p width offset with hl | ⟨sp, i, hl⟩ | hl | hl <;> rw [hl] at h
  · exact locateReg_eq_reg h
  · exact (locateByte_ne_reg _ _ _ _ _ h).elim
  · cases h
  · cases h

/-- An access that reaches a byte of a buffer is an 8-bit one at an index inside the capacity. -/
theorem locate_eq_byte {p : Params} {width offset i : Nat} {sp : Space}
    (h : locate p width offset = .byte sp i) : width = 8 ∧ i < sp.cap p := by
  rcases locate_spec p width offset with hl | ⟨sq, j, hl⟩ | hl | hl <;> rw [hl] at h
  · exact (locateReg_ne_byte _ _ _ _ h).elim
  · obtain ⟨hw, rfl, rfl, hi⟩ := locateByte_eq_byte h
    exact ⟨hw, hi⟩
  · cases h
  · cases h

/-- With legal parameters byte `i` of a buffer lies at the buffer's base plus `i`: the ranges of R71 do not
overlap. -/
theorem locate_byte {p : Params} (hp : p.legal = true) {sp : Space} {i : Nat} (hi : i < sp.cap p) :
    locate p 8 (sp.base + i) = .byte sp i := by
  have hcap := sp.cap_le_window hp
  have hbyte : locateByte p 8 sp i = .byte sp i := by simp [locateByte, hi]
  unfold locate
  cases sp with
  | fld =>
    have hfld : i < 65535 := hi
    simp only [Space.base, Nat.add_sub_cancel_left]
    rwa [if_neg (by omega), if_neg (by omega), if_pos (by omega)]
  | a0 =>
    simp only [Space.base, Nat.add_sub_cancel_left]
    rwa [if_neg (by omega), if_neg (by omega), if_neg (by omega), if_neg (by omega), if_pos (by omega)]
  | a1 =>
    simp only [Space.base, Nat.add_sub_cancel_left]
    rwa [if_neg (by omega), if_neg (by omega), if_neg (by omega), if_neg (by omega), if_neg (by omega),
      if_pos (by omega)]
  | fbuf =>
    simp only [Space.base, Nat.add_sub_cancel_left]
    rwa [if_neg (by omega), if_neg (by omega), if_neg (by omega), if_neg (by omega), if_neg (by omega),
      if_neg (by omega), if_pos (by omega)]

/-! ## One access -/

@[simp] theorem serve_readReg (s : State) (r : Reg) :
    serve (.read 64 r.offset) s = .next { s with reply := some (s.readReg r) } := by
  simp [serve, serveRead]

theorem serve_readByte {s : State} (hp : s.par.legal = true) {sp : Space} {i : Nat} (hi : i < sp.cap s.par) :
    serve (.read 8 (sp.base + i)) s = .next { s with reply := some ((s.readByte sp i).setWidth 64) } := by
  simp [serve, serveRead, locate_byte hp hi]

theorem serve_writeReg (s : State) {r : Reg} (hr : r ≠ .op) (v : RegWord) :
    serve (.write 64 r.offset v) s = .next (s.writeReg r v) := by
  cases r
  case op => exact absurd rfl hr
  all_goals rfl

@[simp] theorem serve_writeOp (s : State) (v : RegWord) : serve (.write 64 0x30 v) s = writeOp v s := rfl

theorem serve_writeByte {s : State} (hp : s.par.legal = true) {sp : Space} {i : Nat} (hi : i < sp.cap s.par)
    (v : RegWord) :
    serve (.write 8 (sp.base + i) v) s = .next (s.hostWriteByte sp i (v.setWidth 8)) := by
  simp [serve, serveWrite, locate_byte hp hi]

/-- Everything a host read can do (20_memory.md R80). -/
theorem serve_read_spec {s t : State} {width offset : Nat} (h : serve (.read width offset) s = .next t) :
    ∃ v, t = { s with reply := some v } := by
  simp only [serve, serveRead] at h
  split at h
  · cases h; exact ⟨_, rfl⟩
  · cases h; exact ⟨_, rfl⟩
  · cases h
  · cases h

/-- Everything a host write can do: the operation of a word written to `OP`, the store to another register, or
the store to a byte that exists (20_memory.md R71, R80). -/
theorem serve_write_spec {s t : State} {width offset : Nat} {v : RegWord}
    (h : serve (.write width offset v) s = .next t) :
    (width = 64 ∧ offset = 0x30 ∧ writeOp v s = .next t) ∨
    (∃ r, r ≠ .op ∧ t = s.writeReg r v) ∨
    (∃ sp i, i < sp.cap s.par ∧ t = s.hostWriteByte sp i (v.setWidth 8)) := by
  simp only [serve, serveWrite] at h
  split at h
  · rename_i hl
    obtain ⟨hw, ho⟩ := locate_eq_reg hl
    exact .inl ⟨hw, ho, h⟩
  · rename_i r hop _
    cases h
    exact .inr (.inl ⟨r, hop, rfl⟩)
  · rename_i sp i hl
    cases h
    exact .inr (.inr ⟨sp, i, (locate_eq_byte hl).2, rfl⟩)
  · cases h
  · cases h

/-- Everything a write to `OP` can do (10_state.md R44, 30_encoding.md R108, 60_exceptions.md R278). -/
theorem writeOp_spec {s t : State} {v : RegWord} (h : writeOp v s = .next t) :
    (s.err ≠ none ∧ t = s) ∨
    (s.err = none ∧ (∃ e, decode v = .error e) ∧ t = s.recordError (v.setWidth 32) .illop 0 0) ∨
    (s.err = none ∧ ∃ i, decode v = .ok i ∧ exec i s = .next t) := by
  unfold writeOp State.errv at h
  split at h
  · rename_i herr
    cases h
    exact .inl ⟨Option.isSome_iff_ne_none.1 herr, rfl⟩
  · rename_i herr
    have hnone : s.err = none := by simpa using herr
    refine .inr ?_
    split at h
    · rename_i e hd
      cases h
      exact .inl ⟨hnone, ⟨e, hd⟩, rfl⟩
    · rename_i i hd
      exact .inr ⟨hnone, i, hd, h⟩

theorem writeOp_of_decode {s : State} {v : RegWord} {i : Instr} (hs : s.err = none) (hd : decode v = .ok i) :
    writeOp v s = exec i s := by
  simp [writeOp, State.errv, hs, hd]

/-! ## Steps, and what a read answers -/

/-- Settles O6: the step is a match on the queue, and a write at the offset of `OP` is `writeOp`. -/
theorem stepServesTheOldestAccessAndRunsItsOperation :
    Obligations.StepServesTheOldestAccessAndRunsItsOperation := by
  have step_cons (s : State) (x : HostAccess) (rest : List HostAccess) (hs : s.pending = x :: rest) :
      step s = serve x (s.accept rest) := by simp [step, hs]
  refine ⟨fun s hs => by simp [step, hs], step_cons, fun s v rest i hs herr hd => ?_⟩
  calc step s = writeOp v (s.accept rest) := by rw [step_cons s _ _ hs, serve_writeOp]
    _ = exec i (s.accept rest) := writeOp_of_decode herr hd

/-- Settles O9: a read writes `reply` alone, and the offset of a byte locates that byte. -/
theorem hostReadsAnswerTheByteAndChangeNothing : Obligations.HostReadsAnswerTheByteAndChangeNothing := by
  refine ⟨fun s t width offset h => ?_, fun s sp i hp hi => serve_readByte hp hi,
    fun p => ⟨rfl, rfl, rfl, rfl, rfl, rfl, rfl, rfl⟩⟩
  obtain ⟨v, rfl⟩ := serve_read_spec h
  exact ⟨rfl, by simp⟩

end Sys2Proof.Machine
end

section
/-! PROOFS of the state family, the registers (10_state.md R21 to R44): what each reads as. -/

namespace Sys2Proof.Machine

theorem flagBit_getLsbD (i j : Nat) (b : Bool) :
    (flagBit i b).getLsbD j = (b && decide (i = j) && decide (j < 64)) := by
  cases b with
  | false => simp [flagBit]
  | true =>
    simp only [flagBit, BitVec.getLsbD_shiftLeft, if_true]
    by_cases hi : i = j
    · simp [hi]
    · simp [hi]
      omega

/-- The bits of `CTRL` (R23). -/
theorem Ctrl.toWord_bits (c : Ctrl) :
    (c.toWord.getLsbD 0 = true ↔ c.ver = .v2) ∧ c.toWord.getLsbD 1 = c.cmpen ∧ c.toWord.getLsbD 2 = c.ie ∧
      c.toWord.toNat < 8 := by
  obtain ⟨ver, cmpen, ie⟩ := c
  cases ver <;> cases cmpen <;> cases ie <;> decide

theorem Ctrl.toWord_ofWord (v : RegWord) : (Ctrl.ofWord v).toWord = v &&& 7 := by
  have hver : verBit (Ctrl.ofWord v).ver = v.getLsbD 0 := by
    unfold Ctrl.ofWord
    cases v.getLsbD 0 <;> rfl
  have hseven (j : Nat) : (7 : RegWord).getLsbD j = decide (j < 3) := by
    have hbit : Nat.testBit 7 j = decide (j < 3) := Nat.testBit_two_pow_sub_one 3 j
    simp only [BitVec.ofNat_eq_ofNat, BitVec.getLsbD_ofNat, hbit]
    simp
    omega
  apply BitVec.eq_of_getLsbD_eq
  intro j hj
  simp only [Ctrl.toWord, BitVec.getLsbD_or, BitVec.getLsbD_and, flagBit_getLsbD, hver, hseven]
  match j with
  | 0 => simp
  | 1 => simp [Ctrl.ofWord]
  | 2 => simp [Ctrl.ofWord]
  | j + 3 => simp

/-- The bits of `CODEC` (R37). -/
theorem Codec.toWord_bits (c : Codec) :
    c.toWord.getLsbD 0 = c.feor ∧ c.toWord.getLsbD 1 = c.lasteor ∧ c.toWord.getLsbD 2 = c.fdone ∧
      c.toWord.getLsbD 3 = c.full ∧ c.toWord.getLsbD 4 = c.ddone ∧ c.toWord.toNat < 32 := by
  obtain ⟨feor, lasteor, fdone, full, ddone⟩ := c
  cases feor <;> cases lasteor <;> cases fdone <;> cases full <;> cases ddone <;> decide

/-- A host write changes no bit of `CODEC` above bit 0 (R37). -/
theorem Codec.hostWrite_bits (c : Codec) (v : RegWord) {j : Nat} (hj : 1 ≤ j) :
    (c.hostWrite v).toWord.getLsbD j = c.toWord.getLsbD j := by
  have h0 : 0 ≠ j := by omega
  simp [Codec.toWord, Codec.hostWrite, flagBit_getLsbD, h0]

/-- The layout of `ERR` (R41): the code in bits 7:0, the operation word in bits 63:32, zero between. -/
theorem errWord_toNat (r : ErrRecord) : (errWord (some r)).toNat = r.code.code.toNat + 2 ^ 32 * r.opw.toNat := by
  have hc := r.code.code.isLt
  have hw := r.opw.isLt
  calc (errWord (some r)).toNat = r.opw.toNat <<< 32 ||| r.code.code.toNat := by
        simp only [errWord, BitVec.toNat_or, BitVec.toNat_shiftLeft, BitVec.toNat_setWidth, Nat.shiftLeft_eq]
        congr 1 <;> omega
    _ = r.opw.toNat <<< 32 + r.code.code.toNat := (Nat.shiftLeft_add_eq_or_of_lt (by omega) _).symm
    _ = r.code.code.toNat + 2 ^ 32 * r.opw.toNat := by rw [Nat.shiftLeft_eq]; omega

theorem ErrCode.code_pos (e : ErrCode) : 0 < e.code.toNat := by cases e <;> decide

/-- `ERR[7:0]` is not 0 exactly where an error is recorded (R36, R41). -/
theorem errWord_code_ne_zero (e : Option ErrRecord) : (errWord e).setWidth 8 ≠ 0 ↔ e.isSome = true := by
  cases e with
  | none => simp [errWord]
  | some r =>
    have hpos := r.code.code_pos
    have hc := r.code.code.isLt
    have hcode : ((errWord (some r)).setWidth 8).toNat = r.code.code.toNat := by
      rw [BitVec.toNat_setWidth, errWord_toNat]
      omega
    simp only [Option.isSome_some, iff_true]
    intro h
    rw [h] at hcode
    simp at hcode
    omega

/-- The bits of `STATUS` (R36). -/
theorem State.status_bits (s : State) :
    s.status.getLsbD 0 = s.err.isSome ∧ s.status.getLsbD 1 = (s.credit == 0) ∧ s.status.toNat < 4 := by
  simp only [State.status, State.errv, State.cz]
  generalize s.err.isSome = errv
  generalize (s.credit == 0) = cz
  cases errv <;> cases cz <;> decide

theorem Kind.numberOrNone_lt (a : Option Kind) : Kind.numberOrNone a < 32 := by
  cases a with
  | none => decide
  | some k => have := k.number_lt; simp only [Kind.numberOrNone]; omega

theorem State.readReg_kindReg (s : State) (a : Arena) :
    (s.readReg (kindReg a)).toNat = Kind.numberOrNone (s.kind a) := by
  have hlt (k : Option Kind) : (BitVec.ofNat 64 (Kind.numberOrNone k)).toNat = Kind.numberOrNone k := by
    have := Kind.numberOrNone_lt k
    rw [BitVec.toNat_ofNat]
    omega
  cases a <;> exact hlt _

/-- Settles O10: each offset is the register's own, and each read is the field or the word of flags. -/
theorem registersReadTheirFieldsAtEightTimesTheirNumber :
    Obligations.RegistersReadTheirFieldsAtEightTimesTheirNumber := by
  intro s
  obtain ⟨hver, hcmpen, hie, hctrl⟩ := s.ctrl.toWord_bits
  refine ⟨?_, rfl, rfl, rfl, rfl, ?_, fun a => ⟨fun hk => ?_, ?_⟩, hver, hcmpen, hie, hctrl, s.codec.toWord_bits⟩
  · have hread := serve_readReg s
    simp only [List.forall_mem_cons]
    exact ⟨hread .id, hread .ctrl, hread .status, hread .err, hread .errinfo, hread .dumplen, hread .op,
      hread .val, hread .fldlen, hread .nxt, hread .len0, hread .len1, hread .kind0, hread .kind1,
      hread .debsize, hread .credmax, hread .credit, hread .codec, hread .fpos, hread .flen, hread .dpos,
      by simp⟩
  · simp [State.readReg, State.len]
    omega
  · rw [s.readReg_kindReg, hk]; rfl
  · simp only [s.readReg_kindReg]
    simp +contextual [Kind.numberOrNone, Kind.number]

/-- Settles O17: `STATUS` is built of the two bits, and a recorded error's code is never 0. -/
theorem statusIsAFunctionOfErrorAndCredit : Obligations.StatusIsAFunctionOfErrorAndCredit := by
  refine ⟨fun s => ?_, by decide +kernel⟩
  obtain ⟨herrv, hcz, hlt⟩ := s.status_bits
  refine ⟨?_, ?_, hlt⟩
  · rw [show s.readReg .status = s.status from rfl, herrv]
    exact (errWord_code_ne_zero s.err).symm
  · rw [show s.readReg .status = s.status from rfl, hcz]
    simp [State.readReg, ← BitVec.toNat_inj]
    omega

/-- Settles O18: bit 2 of `CTRL` is `IE`, bit 0 of `STATUS` is `ERRV`. -/
theorem interruptIsEnableAndErrorValid : Obligations.InterruptIsEnableAndErrorValid := by
  intro s
  obtain ⟨-, -, hie, -⟩ := s.ctrl.toWord_bits
  obtain ⟨herrv, -, -⟩ := s.status_bits
  calc s.irq = (s.ctrl.ie && s.err.isSome) := rfl
    _ = ((s.readReg .ctrl).getLsbD 2 && (s.readReg .status).getLsbD 0) := by rw [← hie, ← herrv]; rfl

end Sys2Proof.Machine
end

section
/-! PROOFS of the state family, the frames of host accesses: the rules by which frames compose, one frame for each
update of the State, and the statements about host writes and `rst` (10_state.md R21 to R52). -/

namespace Sys2Proof.Machine

/-! ## How frames compose -/

theorem SameRegsBut.refl (l : List Reg) (s : State) : SameRegsBut l s s :=
  ⟨rfl, rfl, rfl, rfl, fun _ _ => rfl⟩

theorem SameRegsBut.mono {l m : List Reg} {s t : State} (h : SameRegsBut l s t) (hlm : l ⊆ m) :
    SameRegsBut m s t := by
  obtain ⟨hpar, hpending, hreply, hdraw, hregs⟩ := h
  exact ⟨hpar, hpending, hreply, hdraw, fun r hr => hregs r fun hl => hr (hlm hl)⟩

theorem SameRegsBut.trans {l m : List Reg} {s t u : State} (hst : SameRegsBut l s t)
    (htu : SameRegsBut m t u) : SameRegsBut (l ++ m) s u := by
  obtain ⟨hpar, hpending, hreply, hdraw, hregs⟩ := hst
  obtain ⟨hpar', hpending', hreply', hdraw', hregs'⟩ := htu
  refine ⟨hpar'.trans hpar, hpending'.trans hpending, hreply'.trans hreply, hdraw'.trans hdraw, fun r hr => ?_⟩
  rw [List.mem_append, not_or] at hr
  exact (hregs' r hr.2).trans (hregs r hr.1)

theorem SameBytes.refl (s : State) : SameBytes s s := fun _ _ => rfl

theorem SameBytes.trans {s t u : State} (hst : SameBytes s t) (htu : SameBytes t u) : SameBytes s u :=
  fun sp i => (htu sp i).trans (hst sp i)

theorem SameBytes.sameBytesBut {s t : State} (h : SameBytes s t) (sp : Space) (lo n : Nat) :
    SameBytesBut s t sp lo n := fun sq i _ => h sq i

theorem SameBytesBut.trans {s t u : State} {sp : Space} {lo n : Nat} (hst : SameBytesBut s t sp lo n)
    (htu : SameBytesBut t u sp lo n) : SameBytesBut s u sp lo n :=
  fun sq i hi => (htu sq i hi).trans (hst sq i hi)

theorem SameBytesBut.mono {s t : State} {sp : Space} {lo n lo' n' : Nat} (h : SameBytesBut s t sp lo n)
    (hlo : lo' ≤ lo) (hn : lo + n ≤ lo' + n') : SameBytesBut s t sp lo' n' :=
  fun sq i hi => h sq i fun ⟨hq, h1, h2⟩ => hi ⟨hq, by omega, by omega⟩

/-! ## The frame of each shared update -/

/-- `STATUS` in the fields it is a function of (10_state.md R36). -/
theorem State.status_eq (s : State) : s.status = flagBit 0 s.err.isSome ||| flagBit 1 (s.credit == 0) := rfl

theorem State.writeBytes_sameRegs (s : State) (sp : Space) (lo : Nat) (bs : List Byte) :
    SameRegsBut [] s (s.writeBytes sp lo bs) := by
  refine ⟨by simp, by simp, by simp, by simp, fun r _ => ?_⟩
  cases sp <;> cases r <;> rfl

theorem State.writeBytes_sameBytesBut (s : State) (sp : Space) (lo : Nat) (bs : List Byte) :
    SameBytesBut s (s.writeBytes sp lo bs) sp lo bs.length :=
  fun _ _ h => s.readByte_writeBytes_other h

theorem State.setLen_sameRegs (s : State) (a : Arena) (n : Nat) : SameRegsBut [lenReg a] s (s.setLen a n) := by
  refine ⟨by simp, by simp, by simp, by simp, fun r hr => ?_⟩
  cases a <;> cases r <;> simp_all [State.readReg, State.status_eq, lenReg, State.setLen]

theorem State.setKind_sameRegs (s : State) (a : Arena) (k : Option Kind) :
    SameRegsBut [kindReg a] s (s.setKind a k) := by
  refine ⟨by simp, by simp, by simp, by simp, fun r hr => ?_⟩
  cases a <;> cases r <;> simp_all [State.readReg, State.status_eq, kindReg, State.setKind]

theorem State.setNext_sameRegs (s : State) (n : Nat) : SameRegsBut [.nxt] s (s.setNext n) := by
  refine ⟨rfl, rfl, rfl, rfl, fun r hr => ?_⟩
  cases r <;> simp_all [State.readReg, State.status_eq]

theorem State.recordError_sameRegs (s : State) (opw : Word) (e : ErrCode) (info dump : Nat) :
    SameRegsBut [.status, .err, .errinfo, .dumplen] s (s.recordError opw e info dump) := by
  refine ⟨rfl, rfl, rfl, rfl, fun r hr => ?_⟩
  cases r <;> simp_all [State.readReg]

theorem State.setLen_sameBytes (s : State) (a : Arena) (n : Nat) : SameBytes s (s.setLen a n) := by
  simp [SameBytes]

theorem State.setKind_sameBytes (s : State) (a : Arena) (k : Option Kind) : SameBytes s (s.setKind a k) := by
  simp [SameBytes]

theorem State.setNext_sameBytes (s : State) (n : Nat) : SameBytes s (s.setNext n) := by
  simp [SameBytes]

theorem State.recordError_sameBytes (s : State) (opw : Word) (e : ErrCode) (info dump : Nat) :
    SameBytes s (s.recordError opw e info dump) := by
  simp [SameBytes]

/-! ## Host writes to registers -/

theorem frame_of_fields {l : List Reg} {s t : State} (hpar : t.par = s.par) (hpending : t.pending = s.pending)
    (hreply : t.reply = s.reply) (hdraw : t.draw = s.draw) (hbuf : ∀ q, t.buf q = s.buf q)
    (hregs : ∀ q, q ∉ l → t.readReg q = s.readReg q) : SameRegsBut l s t ∧ SameBytes s t :=
  ⟨⟨hpar, hpending, hreply, hdraw, hregs⟩, fun sp i => State.readByte_congr (hbuf sp) hdraw i⟩

/-- A host write to a register but `ERR` and `LEN[a]` changes that register alone, or nothing (10_state.md
R21). -/
theorem State.writeReg_frame (s : State) {r : Reg} (hr : r ∉ [Reg.err, .len0, .len1]) (v : RegWord) :
    SameRegsBut [r] s (s.writeReg r v) ∧ SameBytes s (s.writeReg r v) := by
  cases r <;> simp only [State.writeReg]
  case err | len0 | len1 => simp at hr
  case id | status | errinfo | dumplen | op | nxt | kind0 | kind1 | credit =>
    exact ⟨.refl _ s, .refl s⟩
  case ctrl | val | fldlen | credmax | codec =>
    exact frame_of_fields rfl rfl rfl rfl (fun q => by cases q <;> rfl)
      (fun q hq => by cases q <;> simp_all [State.readReg, State.status_eq])
  case debsize | fpos | flen | dpos =>
    split
    · exact frame_of_fields rfl rfl rfl rfl (fun q => by cases q <;> rfl)
        (fun q hq => by cases q <;> simp_all [State.readReg, State.status_eq])
    · exact ⟨.refl _ s, .refl s⟩

/-- Such a write answers, with what the register then satisfies and `writeReg_frame`. -/
theorem serve_writeReg_frame (s : State) {r : Reg} (hr : r ∉ [Reg.op, .err, .len0, .len1]) (v : RegWord)
    {P : State → Prop} (hP : P (s.writeReg r v)) :
    ∃ t, serve (.write 64 r.offset v) s = .next t ∧ P t ∧ SameRegsBut [r] s t ∧ SameBytes s t := by
  simp only [List.mem_cons, not_or] at hr
  obtain ⟨hop, hrest⟩ := hr
  exact ⟨_, serve_writeReg s hop v, hP, s.writeReg_frame (by simpa using hrest) v⟩

/-- Settles O14: the range tests of `writeReg` fail, or the register is read-only. -/
theorem illegalRegisterWritesAreIgnored : Obligations.IllegalRegisterWritesAreIgnored := by
  intro s v
  have ignored {r : Reg} (hop : r ≠ .op) (hw : s.writeReg r v = s) :
      serve (.write 64 r.offset v) s = .next s := by rw [serve_writeReg s hop, hw]
  refine ⟨fun hv => ignored (r := .debsize) (by decide) (if_neg (by omega)),
    fun hv => ignored (r := .fpos) (by decide) (if_neg (by omega)),
    fun hv => ignored (r := .flen) (by decide) (if_neg (by omega)),
    fun hv => ignored (r := .dpos) (by decide) (if_neg (by omega)), ?_⟩
  simp only [List.forall_mem_cons]
  exact ⟨rfl, rfl, rfl, rfl, rfl, rfl, rfl, rfl, by simp⟩

/-- A value that fits the live field reads back whole. -/
theorem setWidth_setWidth_of_toNat_lt (v : RegWord) {n : Nat} (hv : v.toNat < 2 ^ n) :
    (v.setWidth n).setWidth 64 = v := by
  apply BitVec.eq_of_toNat_eq
  rw [BitVec.toNat_setWidth, BitVec.toNat_setWidth, Nat.mod_eq_of_lt hv, Nat.mod_eq_of_lt v.isLt]

/-- Settles O15: one use of `serve_writeReg_frame` a register, and what the register then reads as. -/
theorem legalRegisterWritesStoreTheirLiveField : Obligations.LegalRegisterWritesStoreTheirLiveField := by
  intro s v hp
  obtain ⟨⟨_, hb⟩, _, hf⟩ := Params.legal_caps hp
  have fits (hv : v.toNat ≤ 131072) : (v.setWidth 18).setWidth 64 = v :=
    setWidth_setWidth_of_toNat_lt v (by omega)
  have stored {r : Reg} (P : State → Prop) (hr : r ∉ [Reg.op, .err, .len0, .len1])
      (hP : P (s.writeReg r v)) := serve_writeReg_frame s hr v hP
  refine ⟨stored (r := .val) (fun t => t.readReg .val = v) (by decide) rfl,
    stored (r := .fldlen) (fun t => (t.readReg .fldlen).toNat = v.toNat % 2 ^ 16) (by decide) ?_,
    fun hv => stored (r := .debsize) (fun t => t.readReg .debsize = v) (by decide) ?_,
    stored (r := .credmax) (fun t => (t.readReg .credmax).toNat = v.toNat % 2 ^ 32) (by decide) ?_,
    ?_,
    fun hv => ⟨stored (r := .fpos) (fun t => t.readReg .fpos = v) (by decide) ?_,
      stored (r := .flen) (fun t => t.readReg .flen = v) (by decide) ?_⟩,
    fun hv => stored (r := .dpos) (fun t => t.readReg .dpos = v) (by decide) ?_⟩
  · simp [State.writeReg, State.readReg]
    omega
  · rw [State.writeReg, if_pos hv]
    exact fits (by omega)
  · simp [State.writeReg, State.readReg]
    omega
  · obtain ⟨t, hserve, ⟨hfeor, hrest⟩, hframe⟩ := stored (r := .codec)
      (fun t => (t.readReg .codec).getLsbD 0 = v.getLsbD 0 ∧
        ∀ j, 1 ≤ j → (t.readReg .codec).getLsbD j = (s.readReg .codec).getLsbD j) (by decide)
      ⟨(s.codec.hostWrite v).toWord_bits.1, fun j hj => s.codec.hostWrite_bits v hj⟩
    exact ⟨t, hserve, hfeor, hrest, hframe⟩
  · rw [State.writeReg, if_pos hv]
    exact fits (by omega)
  · rw [State.writeReg, if_pos hv]
    exact fits (by omega)
  · rw [State.writeReg, if_pos hv]
    exact fits (by omega)

/-- Settles O16: the host's read of the stored fields is bits 2:0 of the value. -/
theorem ctrlStoresItsThreeFieldsAlone : Obligations.CtrlStoresItsThreeFieldsAlone := by
  refine ⟨by decide +kernel, fun s v => ?_⟩
  have hver : (Ctrl.ofWord v).ver = .v2 ↔ v.getLsbD 0 = true := by
    unfold Ctrl.ofWord
    cases v.getLsbD 0 <;> simp
  obtain ⟨hregs, hbytes⟩ := s.writeReg_frame (r := .ctrl) (by decide) v
  exact ⟨_, serve_writeReg s (r := .ctrl) (by decide) v, Ctrl.toWord_ofWord v, hver, rfl, rfl, hregs, hbytes⟩

/-! ## Host writes to `LEN[a]` and to buffer bytes -/

theorem serve_writeLen (s : State) (a : Arena) (v : RegWord) :
    serve (.write 64 (lenOffset a) v) s = .next (s.writeLen a v) := by cases a <;> rfl

/-- Settles O12: a legal length is stored by `setLen` and the view ended by `setKind`. -/
theorem lengthWritesStoreAndEndTheViewOrAreIgnored :
    Obligations.LengthWritesStoreAndEndTheViewOrAreIgnored := by
  intro s a v hp
  obtain ⟨⟨_, hb⟩, -⟩ := Params.legal_caps hp
  rw [serve_writeLen, State.writeLen]
  refine ⟨fun hv => ⟨_, rfl, ?_⟩, fun hv => by rw [if_neg (by omega)]⟩
  rw [if_pos hv]
  refine ⟨?_, by simp, (s.setLen_sameRegs a _).trans (State.setKind_sameRegs _ a none),
    (s.setLen_sameBytes a _).trans (State.setKind_sameBytes _ a none)⟩
  rw [State.setKind_len, State.setLen_len _ _ _ _ (by omega), if_pos rfl]

theorem State.hostWriteByte_arena (s : State) (a : Arena) (i : Nat) (b : Byte) :
    s.hostWriteByte a.space i b = (s.writeBytes a.space i [b]).setKind a none := by cases a <;> rfl

theorem State.hostWriteByte_of_no_arena (s : State) {sp : Space} (hsp : ∀ a : Arena, sp ≠ a.space) (i : Nat)
    (b : Byte) : s.hostWriteByte sp i b = s.writeBytes sp i [b] := by
  cases sp
  case fld | fbuf => rfl
  case a0 => exact absurd rfl (hsp .a0)
  case a1 => exact absurd rfl (hsp .a1)

/-- In every buffer the bytes after a host write are those after the store. -/
theorem State.hostWriteByte_readByte (s : State) (sp q : Space) (i j : Nat) (b : Byte) :
    (s.hostWriteByte sp i b).readByte q j = (s.writeBytes sp i [b]).readByte q j := by
  cases sp <;> simp [State.hostWriteByte]

/-- Settles O13: in every buffer the write is `writeBytes` of one byte, in an arena `setKind` follows it. -/
theorem byteWritesStoreAndEndTheViewOfAnArena : Obligations.ByteWritesStoreAndEndTheViewOfAnArena := by
  intro s sp i v hp hi
  refine ⟨_, serve_writeByte hp hi v, ?_, fun q j hj => ?_, fun a ha => ?_, fun hsp => ?_⟩
  · rw [State.hostWriteByte_readByte, State.readByte_writeBytes, dif_pos ⟨rfl, le_refl i, by simp⟩]
    simp
  · rw [State.hostWriteByte_readByte]
    exact s.writeBytes_sameBytesBut sp i [v.setWidth 8] q j hj
  · subst ha
    rw [State.hostWriteByte_arena]
    exact ⟨by simp, (s.writeBytes_sameRegs a.space i _).trans (State.setKind_sameRegs _ a none)⟩
  · rw [s.hostWriteByte_of_no_arena hsp]
    exact s.writeBytes_sameRegs sp i _

/-! ## The reset input (10_state.md R51, 70_reset_and_hazards.md R310) -/

/-- Settles O19: the registers as `resetWith` sets them; no byte is listed, so each reads as its free value. -/
theorem resetLeavesTheStatedValues : Obligations.ResetLeavesTheStatedValues := by
  intro s hp
  obtain ⟨⟨_, hb⟩, -⟩ := Params.legal_caps hp
  have hstatus : flagBit 0 false ||| flagBit 1 true = 2 := by decide
  have hctrl : (Ctrl.mk .v1 false false).toWord = 0 := by decide
  have hcodec : (Codec.mk false false false false false).toWord = 0 := by decide
  refine ⟨s.hardReset, rfl, rfl, rfl, rfl, hstatus, rfl, rfl, ?_, rfl, ?_, fun sp i => ?_⟩
  · simp [State.hardReset, State.resetWith, State.readReg]
    omega
  · simp only [List.forall_mem_cons]
    exact ⟨hctrl, rfl, rfl, rfl, rfl, rfl, rfl, rfl, rfl, rfl, rfl, rfl, hcodec, rfl, rfl, by simp⟩
  · cases sp <;> rfl

end Sys2Proof.Machine
end

section
/-! PROOFS of the state family, everything an operation can do: it raises, or it completes in the state its row of
files 40 to 45 of spec/ gives. The statements about all operations are proved from these two relations. -/

namespace Sys2Proof.Machine

/-! ## Two states the operations leave, by name -/

/-- The state in which `PUTT` and `PUTB` complete (42_variable_fields.md R192, R194). -/
def State.installed (s : State) (a : Arena) (off old : Nat) (pre body : List Byte) : State :=
  (((s.resize a off pre.length old body.length).writeBytes a.space off pre).writeBytes a.space
    (off + pre.length) body).setNext (off + pre.length + body.length)

theorem installVariable_completes {i : Instr} {a : Arena} {off old : Nat} {pre body : List Byte} {s t : State}
    (h : installVariable i a off old pre body s = .next t) :
    (∃ info, t = s.recordError (encode i) .bounds info 0) ∨
    (s.len a - old + body.length ≤ s.debsize.toNat ∧ t = s.installed a off old pre body) := by
  rcases installVariable_spec h with ⟨_, rfl⟩ | ⟨hroom, rfl⟩
  · exact .inl ⟨_, rfl⟩
  · exact .inr ⟨hroom, rfl⟩

/-- The state in which `RLINIT` completes (43_rlc.md R211). -/
def State.streamStarted (s : State) : State :=
  { s with codec := ⟨false, false, false, false, false⟩, fpos := 0, flen := 0 }

theorem execRlinit_eq (s : State) : execRlinit s = .next s.streamStarted := rfl

/-! ## The length the digits or bytes before a body announce -/

/-- Digits below the base, the most significant first, stay below the power of their number. -/
theorem foldl_digits_lt {base : Nat} {ds : List Nat} (h : ∀ d ∈ ds, d < base) (acc : Nat) :
    ds.foldl (fun x d => x * base + d) acc < (acc + 1) * base ^ ds.length := by
  induction ds generalizing acc with
  | nil => simp
  | cons d ds ih =>
    have hd : d < base := h d (by simp)
    have hstep : acc * base + d + 1 ≤ (acc + 1) * base := by
      rw [Nat.add_mul]
      omega
    calc ds.foldl (fun x d => x * base + d) (acc * base + d)
        < (acc * base + d + 1) * base ^ ds.length := ih (fun e he => h e (by simp [he])) _
      _ ≤ (acc + 1) * base * base ^ ds.length := Nat.mul_le_mul_right _ hstep
      _ = (acc + 1) * base ^ (ds.length + 1) := by rw [Nat.pow_succ', Nat.mul_assoc]

theorem digitsValue_lt {base : Nat} {ds : List Nat} (h : ∀ d ∈ ds, d < base) :
    digitsValue base ds < base ^ ds.length := by
  have := foldl_digits_lt h 0
  rwa [Nat.zero_add, Nat.one_mul] at this

theorem firstBad_eq_none_iff {ok : Byte → Bool} {bs : List Byte} :
    firstBad ok bs = none ↔ ∀ b ∈ bs, ok b = true := by
  simp [firstBad]

theorem undec_lt {bs : List Byte} (h : firstBad isDigit bs = none) : undec bs < 10 ^ bs.length := by
  have hdigit : ∀ d ∈ bs.map (fun b => b.toNat - 0x30), d < 10 := by
    intro d hd
    obtain ⟨b, hb, rfl⟩ := List.mem_map.1 hd
    have := (isDigit_iff b).1 (firstBad_eq_none_iff.1 h b hb)
    omega
  simpa [undec] using digitsValue_lt hdigit

theorem unbe_lt (bs : List Byte) : unbe bs < 256 ^ bs.length := by
  have hbyte : ∀ d ∈ bs.map BitVec.toNat, d < 256 := by
    intro d hd
    obtain ⟨b, _, rfl⟩ := List.mem_map.1 hd
    exact b.isLt
  simpa [unbe] using digitsValue_lt hbyte

/-! ## The two relations -/

/-- Not `CHECK`, whose errors carry a dump length. -/
def NotCheck (i : Instr) : Prop := ∀ a e, i ≠ .check a e

/-- `t` is what `i` leaves in `s` when it raises (60_exceptions.md R275, R276): an error recorded, by `CHECK` with
a dump length, by `RLDEC` at a malformed sub-record after the delivery of those before it. -/
inductive Raised (s : State) : Instr → State → Prop where
  | check {a e c info} (hc : c ∈ [ErrCode.sig, .len, .term, .version]) :
    Raised s (.check a e) (s.recordError (encode (.check a e)) c info (min (s.len a) 256))
  | subrec {a info} (hpos : 1 ≤ s.dpos.toNat) (hle : s.dpos.toNat ≤ s.len a) :
    Raised s (.rldec a) ((s.appendDecoded (s.decoded a)).recordError (encode (.rldec a)) .subrec info 0)
  | plain {i c info} (hi : NotCheck i) : Raised s i (s.recordError (encode i) c info 0)

/-- `t` is what `i` leaves in `s` when it completes, with the tests it has passed. -/
inductive Completes (s : State) : Instr → State → Prop where
  | nop : Completes s .nop s
  | sreset : Completes s .sreset s.resetRegisters
  | new {a k l} (hl : s.layout k = some l) : Completes s (.new a k) (s.newCommand a k l)
  | check {a e k} (he : e = none ∨ e = some k) (hpos : 1 ≤ s.len a) :
    Completes s (.check a e) (s.checked a k)
  | puta {a off w} (hk : s.kind a ≠ none) (hs : off.toNat + w.toNat ≤ s.len a)
    (hw : s.fldlen.toNat ≤ w.toNat) :
    Completes s (.puta a off w) (s.storeField a off.toNat (padded s.staged w.toNat))
  | geta {a off w} (hk : s.kind a ≠ none) (hs : off.toNat + w.toNat ≤ s.len a) :
    Completes s (.geta a off w)
      (s.deliver ((s.readBytes a.space off.toNat w.toNat).map norm) (off.toNat + w.toNat))
  | putn {a off w} (hk : s.kind a ≠ none) (hs : off.toNat + w.toNat ≤ s.len a) :
    Completes s (.putn a off w) (s.storeField a off.toNat (dec s.val.toNat w.toNat))
  | getn {a off w} (hk : s.kind a ≠ none) (hs : off.toNat + w.toNat ≤ s.len a) :
    Completes s (.getn a off w)
      (s.deliverNumber (undec (s.readBytes a.space off.toNat w.toNat)) (off.toNat + w.toNat))
  | putu {a off w} (hk : s.kind a ≠ none) (hs : off.toNat + w.toNat ≤ s.len a) :
    Completes s (.putu a off w) (s.storeField a off.toNat (be s.val.toNat w.toNat))
  | getu {a off w} (hk : s.kind a ≠ none) (hs : off.toNat + w.toNat ≤ s.len a) :
    Completes s (.getu a off w)
      (s.deliverNumber (unbe (s.readBytes a.space off.toNat w.toNat)) (off.toNat + w.toNat))
  | putt {a off old} (hs : off.toNat + 3 + old ≤ s.len a)
    (hroom : s.len a - old + s.staged.length ≤ s.debsize.toNat) :
    Completes s (.putt a off) (s.installed a off.toNat old (dec s.fldlen.toNat 3) s.staged)
  | gett {a off n} (hs : off.toNat + 3 + n ≤ s.len a) (hn : n ≤ 999) :
    Completes s (.gett a off)
      (s.deliver (s.readBytes a.space (off.toNat + 3) n) (off.toNat + 3 + n))
  | putb {a off old} (hs : off.toNat + 2 + old ≤ s.len a)
    (hroom : s.len a - old + s.staged.length ≤ s.debsize.toNat) :
    Completes s (.putb a off) (s.installed a off.toNat old (be s.fldlen.toNat 2) s.staged)
  | getb {a off n} (hs : off.toNat + 2 + n ≤ s.len a) (hn : n ≤ 65535) :
    Completes s (.getb a off)
      (s.deliver (s.readBytes a.space (off.toNat + 2) n) (off.toNat + 2 + n))
  | rlenc {a} (hk : s.kind a = some .data) (hle : s.fpos.toNat ≤ s.flen.toNat) :
    Completes s (.rlenc a) (s.appendEncoded a (s.encoded a))
  | rldec {a} (hpos : 1 ≤ s.dpos.toNat) (hle : s.dpos.toNat ≤ s.len a) :
    Completes s (.rldec a) ((s.appendDecoded (s.decoded a)).setDdone a)
  | rleos : Completes s .rleos s
  | rlinit : Completes s .rlinit s.streamStarted
  | crinit : Completes s .crinit s.loadCredit
  | crtake : Completes s .crtake { s with credit := s.credit - 1 }
  | crgrant : Completes s .crgrant s.loadCredit

/-- Every next state of an outcome is one of the two. -/
def Explained (s : State) (i : Instr) (o : Host.Outcome State Fault Refusal) : Prop :=
  ∀ t, o = .next t → Raised s i t ∨ Completes s i t

/-! ## What the operations share -/

theorem explained_next {s t : State} {i : Instr} (h : Completes s i t) : Explained s i (.next t) := by
  rintro _ ⟨⟩
  exact .inr h

theorem explained_raise {s : State} {i : Instr} {c : ErrCode} {info : Nat} (hi : NotCheck i) :
    Explained s i (raise i c info s) := by
  rintro _ ⟨⟩
  exact .inl (.plain hi)

theorem explained_raiseCheck {s : State} {a : Arena} {e : Option Kind} {c : ErrCode} {info : Nat}
    (hc : c ∈ [ErrCode.sig, .len, .term, .version]) :
    Explained s (.check a e) (raiseCheck (.check a e) a c info s) := by
  rintro _ ⟨⟩
  exact .inl (.check hc)

theorem explained_ite {s : State} {i : Instr} {p : Prop} [Decidable p] {x y : Host.Outcome State Fault Refusal}
    (hx : p → Explained s i x) (hy : ¬ p → Explained s i y) : Explained s i (if p then x else y) := by
  split
  · exact hx ‹_›
  · exact hy ‹_›

theorem explained_inView {s : State} {i : Instr} {a : Arena} {stop : Nat}
    {body : Host.Outcome State Fault Refusal} (hi : NotCheck i)
    (hbody : s.kind a ≠ none → stop ≤ s.len a → Explained s i body) :
    Explained s i (inView i a stop s body) := by
  intro t h
  rcases inView_spec h with ⟨_, rfl⟩ | ⟨_, _, rfl⟩ | ⟨hk, hs, hb⟩
  · exact .inl (.plain hi)
  · exact .inl (.plain hi)
  · exact hbody hk hs t hb

theorem explained_textField {s : State} {i : Instr} {a : Arena} {off : Nat}
    {body : Nat → Host.Outcome State Fault Refusal} (hi : NotCheck i)
    (hbody : ∀ n, n ≤ 999 → off + 3 + n ≤ s.len a → Explained s i (body n)) :
    Explained s i (textField i a off s body) := by
  intro t h
  rcases textField_spec h with ⟨_, _, rfl⟩ | ⟨_, hdigits, hs, hb⟩
  · exact .inl (.plain hi)
  · have hn := undec_lt hdigits
    rw [State.readBytes_length] at hn
    exact hbody _ (by omega) hs t hb

theorem explained_binaryField {s : State} {i : Instr} {a : Arena} {off : Nat}
    {body : Nat → Host.Outcome State Fault Refusal} (hi : NotCheck i)
    (hbody : ∀ n, n ≤ 65535 → off + 2 + n ≤ s.len a → Explained s i (body n)) :
    Explained s i (binaryField i a off s body) := by
  intro t h
  rcases binaryField_spec h with ⟨_, _, rfl⟩ | ⟨_, hs, hb⟩
  · exact .inl (.plain hi)
  · have hn := unbe_lt (s.readBytes a.space off 2)
    rw [State.readBytes_length] at hn
    exact hbody _ (by omega) hs t hb

theorem explained_installVariable {s : State} {i : Instr} {a : Arena} {off old : Nat} {pre body : List Byte}
    (hi : NotCheck i) (h : s.len a - old + body.length ≤ s.debsize.toNat →
      Completes s i (s.installed a off old pre body)) :
    Explained s i (installVariable i a off old pre body s) := by
  intro t ht
  rcases installVariable_completes ht with ⟨_, rfl⟩ | ⟨hroom, rfl⟩
  · exact .inl (.plain hi)
  · exact .inr (h hroom)

/-! ## The operations one by one -/

theorem execNew_explained (s : State) (a : Arena) (k : Kind) : Explained s (.new a k) (execNew a k s) := by
  unfold execNew
  split
  · exact explained_raise (by nofun)
  · exact explained_next (.new ‹_›)

theorem checkLayout_explained {s : State} {a : Arena} {e : Option Kind} {k : Kind} (he : e = none ∨ e = some k)
    (hpos : 1 ≤ s.len a) (l : Layout) : Explained s (.check a e) (checkLayout (.check a e) a k l s) :=
  explained_ite
    (fun _ => explained_ite (fun _ => explained_raiseCheck (by decide))
      (fun _ => explained_next (.check he hpos)))
    (fun _ => explained_raiseCheck (by decide))

theorem checkAny_explained (s : State) (a : Arena) :
    Explained s (.check a none) (checkAny (.check a none) a s) := by
  refine explained_ite (fun _ => explained_raiseCheck (by decide)) (fun hpos => ?_)
  split
  · exact explained_raiseCheck (by decide)
  · split
    · exact explained_raiseCheck (by decide)
    · exact checkLayout_explained (.inl rfl) (by omega) _

theorem checkKind_explained (s : State) (a : Arena) (k : Kind) :
    Explained s (.check a (some k)) (checkKind (.check a (some k)) a k s) := by
  unfold checkKind
  split
  · exact explained_raiseCheck (by decide)
  · exact explained_ite (fun _ => explained_raiseCheck (by decide)) fun hpos =>
      explained_ite (fun _ => checkLayout_explained (.inr rfl) (by omega) _)
        (fun _ => explained_raiseCheck (by decide))

theorem execCheck_explained (s : State) (a : Arena) (e : Option Kind) :
    Explained s (.check a e) (execCheck a e s) := by
  cases e with
  | none => exact checkAny_explained s a
  | some k => exact checkKind_explained s a k

theorem execPuta_explained (s : State) (a : Arena) (off : BitVec 17) (w : BitVec 8) :
    Explained s (.puta a off w) (execPuta a off w s) := by
  refine explained_inView (by nofun) fun hk hs =>
    explained_ite (fun hw => ?_) (fun _ => explained_raise (by nofun))
  split
  · exact explained_raise (by nofun)
  · exact explained_next (.puta hk hs hw)

theorem execGeta_explained (s : State) (a : Arena) (off : BitVec 17) (w : BitVec 8) :
    Explained s (.geta a off w) (execGeta a off w s) := by
  refine explained_inView (by nofun) fun hk hs => ?_
  dsimp only
  split
  · exact explained_raise (by nofun)
  · exact explained_next (.geta hk hs)

theorem execGetn_explained (s : State) (a : Arena) (off : BitVec 17) (w : BitVec 8) :
    Explained s (.getn a off w) (execGetn a off w s) := by
  refine explained_inView (by nofun) fun hk hs => ?_
  dsimp only
  split
  · exact explained_raise (by nofun)
  · exact explained_next (.getn hk hs)

theorem execRldec_explained (s : State) (a : Arena) : Explained s (.rldec a) (execRldec a s) := by
  refine explained_ite (fun _ => explained_ite (fun hd => ?_) (fun _ => explained_raise (by nofun)))
    (fun _ => explained_raise (by nofun))
  obtain ⟨hpos, hle⟩ := hd
  refine explained_ite (fun _ => ?_) (fun _ => explained_next (.rldec hpos hle))
  rintro _ ⟨⟩
  exact .inl (.subrec hpos hle)

/-- Everything an operation can do: it raises or it completes. -/
theorem exec_explained (s : State) (i : Instr) : Explained s i (exec i s) := by
  cases i with
  | nop => exact explained_next .nop
  | sreset => exact explained_next .sreset
  | new a k => exact execNew_explained s a k
  | check a e => exact execCheck_explained s a e
  | puta a off w => exact execPuta_explained s a off w
  | geta a off w => exact execGeta_explained s a off w
  | putn a off w =>
    exact explained_inView (by nofun) fun hk hs =>
      explained_ite (fun _ => explained_next (.putn hk hs)) (fun _ => explained_raise (by nofun))
  | getn a off w => exact execGetn_explained s a off w
  | putu a off w =>
    exact explained_inView (by nofun) fun hk hs =>
      explained_ite (fun _ => explained_next (.putu hk hs)) (fun _ => explained_raise (by nofun))
  | getu a off w => exact explained_inView (by nofun) fun hk hs => explained_next (.getu hk hs)
  | putt a off =>
    exact explained_textField (by nofun) fun _ _ hs => explained_ite
      (fun _ => explained_installVariable (by nofun) (.putt hs)) (fun _ => explained_raise (by nofun))
  | gett a off => exact explained_textField (by nofun) fun _ hn hs => explained_next (.gett hs hn)
  | putb a off =>
    exact explained_binaryField (by nofun) fun _ _ hs => explained_installVariable (by nofun) (.putb hs)
  | getb a off => exact explained_binaryField (by nofun) fun _ hn hs => explained_next (.getb hs hn)
  | rlenc a =>
    exact explained_ite
      (fun hk => explained_ite (fun hle => explained_next (.rlenc hk hle)) (fun _ => explained_raise (by nofun)))
      (fun _ => explained_raise (by nofun))
  | rldec a => exact execRldec_explained s a
  | rleos => exact explained_ite (fun _ => explained_next .rleos) (fun _ => explained_raise (by nofun))
  | rlinit => exact explained_next .rlinit
  | crinit => exact explained_next .crinit
  | crtake => exact explained_ite (fun _ => explained_next .crtake) (fun _ => explained_raise (by nofun))
  | crgrant => exact explained_ite (fun _ => explained_next .crgrant) (fun _ => explained_raise (by nofun))

/-- The inversion of `exec` that the statements about all operations start from. -/
theorem exec_spec {i : Instr} {s t : State} (h : exec i s = .next t) : Raised s i t ∨ Completes s i t :=
  exec_explained s i t h

end Sys2Proof.Machine
end

section
/-! PROOFS of the state family, the bounds of the codec (43_rlc.md R213, R219): what it writes fits the room it was
given, and what it takes lies inside its source. -/

namespace Sys2Proof.Machine

/-! ## The encoder -/

theorem runLen_le (chunk : List Byte) : runLen chunk ≤ chunk.length := by
  cases chunk with
  | nil => simp [runLen]
  | cons b bs =>
    have hrun := (List.takeWhile_sublist (fun c => c == b) (l := bs.take 62)).length_le
    have htake := List.length_take_le' 62 bs
    simp only [runLen, List.length_cons]
    omega

theorem literalExtra_le (cmpen : Bool) (k : Nat) (bs : List Byte) :
    literalExtra cmpen k bs ≤ k ∧ literalExtra cmpen k bs ≤ bs.length := by
  induction k generalizing bs with
  | zero => simp [literalExtra]
  | succ k ih =>
    cases bs with
    | nil => simp [literalExtra]
    | cons b bs =>
      have := ih bs
      simp only [literalExtra, List.length_cons]
      split <;> omega

theorem subRecordSpan_le {cmpen : Bool} {room : Nat} {chunk : List Byte} (hchunk : chunk ≠ []) :
    subRecordSpan cmpen room chunk ≤ chunk.length := by
  have hpos := List.length_pos_iff.2 hchunk
  have hlit := (literalExtra_le cmpen (min 62 (room - 2)) chunk.tail).2
  rw [List.length_tail] at hlit
  unfold subRecordSpan
  split
  · exact runLen_le chunk
  · omega

/-- A sub-record fits the room: two bytes for a run, a header and its literal bytes otherwise. -/
theorem subRecord_length_le {cmpen feor : Bool} {room : Nat} {chunk : List Byte} (hroom : 2 ≤ room) :
    (subRecord cmpen feor room chunk).length ≤ room := by
  have hlit := (literalExtra_le cmpen (min 62 (room - 2)) chunk.tail).1
  unfold subRecord subRecordSpan
  split
  · have := List.length_take_le 1 chunk
    simp only [List.length_cons]
    omega
  · simp only [List.length_cons, List.length_take]
    omega

theorem encodeLoop_le (cmpen feor : Bool) (fuel room : Nat) (chunk : List Byte) :
    (encodeLoop cmpen feor fuel room chunk).bytes.length ≤ room ∧
      (encodeLoop cmpen feor fuel room chunk).used ≤ chunk.length := by
  induction fuel generalizing room chunk with
  | zero => simp [encodeLoop]
  | succ fuel ih =>
    unfold encodeLoop
    split
    · simp
    · rename_i hgo
      simp only [Bool.or_eq_true, List.isEmpty_iff, decide_eq_true_eq, not_or] at hgo
      obtain ⟨hchunk, hroom⟩ := hgo
      have hspan := subRecordSpan_le (cmpen := cmpen) (room := room) hchunk
      have hlen := subRecord_length_le (cmpen := cmpen) (feor := feor) (chunk := chunk) (by omega : 2 ≤ room)
      obtain ⟨hbytes, hused⟩ := ih (room - (subRecord cmpen feor room chunk).length)
        (chunk.drop (subRecordSpan cmpen room chunk))
      rw [List.length_drop] at hused
      simp only [List.length_append]
      omega

theorem encodeEmptyRecord_le (room : Nat) :
    (encodeEmptyRecord room).bytes.length ≤ room ∧ (encodeEmptyRecord room).used = 0 := by
  unfold encodeEmptyRecord
  split <;> simp
  omega

/-- What `RLENC` appends fits below `DEBSIZE`, and it takes no more than `FBUF[FPOS..FLEN)`. -/
theorem State.encoded_le (s : State) (a : Arena) :
    (s.encoded a).bytes.length ≤ s.debsize.toNat - s.len a ∧
      (s.encoded a).used ≤ s.flen.toNat - s.fpos.toNat := by
  unfold State.encoded
  dsimp only
  split
  · obtain ⟨hbytes, hused⟩ := encodeEmptyRecord_le (s.debsize.toNat - s.len a)
    exact ⟨hbytes, by omega⟩
  · simpa using encodeLoop_le s.ctrl.cmpen s.codec.feor _ (s.debsize.toNat - s.len a)
      (s.readBytes .fbuf s.fpos.toNat (s.flen.toNat - s.fpos.toNat))

/-! ## The decoder -/

theorem expandRecord_length_le (h : Byte) (rest : List Byte) :
    (expandRecord h rest).length ≤ headerCount h := by
  unfold expandRecord
  split
  · simp
  · exact List.length_take_le _ _

theorem decodeLoop_le (fuel room : Nat) (bs : List Byte) :
    (decodeLoop fuel room bs).bytes.length ≤ room ∧ (decodeLoop fuel room bs).used ≤ bs.length := by
  induction fuel generalizing room bs with
  | zero => cases bs <;> simp [decodeLoop]
  | succ fuel ih =>
    cases bs with
    | nil => simp [decodeLoop]
    | cons h rest =>
      have hexp := expandRecord_length_le h rest
      unfold decodeLoop
      split
      · simp
      · split
        · simp
        · split
          · simp only [List.length_cons]
            omega
          · obtain ⟨hbytes, hused⟩ := ih (room - headerCount h) (rest.drop (headerNeed h))
            rw [List.length_drop] at hused
            simp only [List.length_append, List.length_cons]
            omega

/-- What `RLDEC` delivers fits `FBUF`, and it takes no more than the command holds from `DPOS` on. -/
theorem State.decoded_le (s : State) (a : Arena) :
    (s.decoded a).bytes.length ≤ s.par.fbufCap - s.flen.toNat ∧
      (s.decoded a).used ≤ s.len a - s.dpos.toNat := by
  unfold State.decoded
  simpa using decodeLoop_le _ (s.par.fbufCap - s.flen.toNat)
    (s.readBytes a.space s.dpos.toNat (s.len a - s.dpos.toNat))

end Sys2Proof.Machine
end

section
/-! PROOFS of the state family, the invariant: each update of the State keeps it under its range, hence each
operation and each host access does (10_state.md R29 to R43). -/

namespace Sys2Proof.Machine

/-! ## Legal parameters (30_encoding.md R114) -/

/-- A layout of a legal `FMT` is never empty and fits the buffer. -/
theorem Params.legal_layout {p : Params} (hp : p.legal = true) {k : Kind} {v : Version} {l : Layout}
    (hl : p.layout k v = some l) : 1 ≤ l.len ∧ l.len ≤ p.bufCap := by
  simp only [Params.legal, Bool.and_eq_true, List.all_eq_true] at hp
  obtain ⟨⟨-, hrows⟩, -⟩ := hp
  have hlegal : l.legal p.bufCap = true := by
    unfold Params.layout Params.row at hl
    by_cases hk : k.number < p.fmt.length
    · rw [List.getD_eq_getElem _ _ hk] at hl
      obtain ⟨h1, h2⟩ := hrows _ (List.getElem_mem hk)
      cases v with
      | v1 => exact Option.all_eq_true _ _ |>.1 h1 l hl
      | v2 => exact Option.all_eq_true _ _ |>.1 h2 l hl
    · rw [List.getD_eq_default _ _ (by omega)] at hl
      cases v <;> cases hl
  simp only [Layout.legal, Bool.and_eq_true, decide_eq_true_eq] at hlegal
  exact ⟨hlegal.1.1, hlegal.2⟩

theorem Space.cap_arena (p : Params) (a : Arena) : a.space.cap p = p.bufCap := by cases a <;> rfl

theorem toNat_ofNat_le (w n : Nat) : (BitVec.ofNat w n).toNat ≤ n := by
  simpa using Nat.mod_le n _

theorem State.setKind_setLen_comm (s : State) (a : Arena) (n : Nat) (k : Option Kind) :
    (s.setLen a n).setKind a k = (s.setKind a k).setLen a n := by cases a <;> rfl

/-! ## Updates that keep the invariant -/

namespace State.Inv

variable {s : State}

/-- No rule bounds these fields, nor do the model's own. -/
theorem update_free (h : s.Inv) {ctrl : Ctrl} {val : BitVec 64} {fldlen : BitVec 16} {credmax credit : BitVec 32}
    {codec : Codec} {pending : List HostAccess} {reply : Option RegWord} {draw : Nat} :
    State.Inv { s with ctrl, val, fldlen, credmax, credit, codec, pending, reply, draw } :=
  { h with }

theorem update_cursors (h : s.Inv) {codec : Codec} {fpos flen dpos : BitVec 18} (hfpos : fpos.toNat ≤ s.par.fbufCap)
    (hflen : flen.toNat ≤ s.par.fbufCap) (hdpos : dpos.toNat ≤ s.par.bufCap) :
    State.Inv { s with codec, fpos, flen, dpos } :=
  { h with fpos_le := hfpos, flen_le := hflen, dpos_le := hdpos }

theorem update_debsize (h : s.Inv) {debsize : BitVec 18} (hpos : 1 ≤ debsize.toNat)
    (hle : debsize.toNat ≤ s.par.bufCap) : State.Inv { s with debsize } :=
  { h with debsize_pos := hpos, debsize_le := hle }

theorem setNext (h : s.Inv) {n : Nat} (hn : n ≤ s.par.bufCap) : (s.setNext n).Inv :=
  { h with nextOff_le := le_trans (toNat_ofNat_le ..) hn }

theorem setLen (h : s.Inv) {a : Arena} {n : Nat} (hn : n ≤ s.par.bufCap) (hpos : s.kind a ≠ none → 1 ≤ n) :
    (s.setLen a n).Inv := by
  obtain ⟨⟨_, hb⟩, -⟩ := Params.legal_caps h.par_legal
  have hlen (b : Arena) := s.setLen_len a b n (by omega)
  have hle (b : Arena) : (s.setLen a n).len b ≤ s.par.bufCap := by
    rw [hlen]
    split
    · exact hn
    · exact h.len_le b
  have hview (b : Arena) (hk : s.kind b ≠ none) : 1 ≤ (s.setLen a n).len b := by
    rw [hlen]
    split
    · subst b; exact hpos hk
    · exact h.view_nonempty b hk
  cases a <;> exact { h with len_le := hle, view_nonempty := hview }

theorem setKind (h : s.Inv) {a : Arena} {k : Option Kind} (hk : k ≠ none → 1 ≤ s.len a) :
    (s.setKind a k).Inv := by
  have hview (b : Arena) (hb : (s.setKind a k).kind b ≠ none) : 1 ≤ s.len b := by
    rw [State.setKind_kind] at hb
    split at hb
    · subst b; exact hk hb
    · exact h.view_nonempty b hb
  cases a <;> exact { h with view_nonempty := hview }

theorem writeBytes (h : s.Inv) {sp : Space} {lo : Nat} {bs : List Byte}
    (hi : lo + bs.length ≤ sp.cap s.par ∨ bs = []) : (s.writeBytes sp lo bs).Inv := by
  have hwf := State.writeBytes_wf h.buf_wf hi
  cases sp <;> exact { h with buf_wf := hwf }

/-- A write to an arena inside the capacity. -/
theorem writeArena (h : s.Inv) {a : Arena} {lo : Nat} {bs : List Byte} (hi : lo + bs.length ≤ s.par.bufCap) :
    (s.writeBytes a.space lo bs).Inv :=
  h.writeBytes (.inl (by rwa [Space.cap_arena]))

theorem recordError (h : s.Inv) {opw : Word} {e : ErrCode} {info dump : Nat} (hdump : dump ≤ 256) :
    (s.recordError opw e info dump).Inv :=
  { h with
    dumplen_le := le_trans (toNat_ofNat_le ..) hdump
    clear_of_no_error := nofun }

theorem acknowledge (h : s.Inv) : s.acknowledge.Inv :=
  { h with dumplen_le := by simp, clear_of_no_error := fun _ => ⟨rfl, rfl⟩ }

end State.Inv

/-! ## The reset states -/

theorem State.resetWith_inv {p : Params} (hp : p.legal = true) : (State.resetWith p).Inv where
  par_legal := hp
  len_le a := by cases a <;> simp [State.resetWith, State.len]
  debsize_pos := by
    obtain ⟨⟨_, _⟩, -⟩ := Params.legal_caps hp
    simp [State.resetWith]
    omega
  debsize_le := toNat_ofNat_le ..
  nextOff_le := by simp [State.resetWith]
  fpos_le := by simp [State.resetWith]
  flen_le := by simp [State.resetWith]
  dpos_le := by
    obtain ⟨⟨_, _⟩, -⟩ := Params.legal_caps hp
    simpa [State.resetWith]
  dumplen_le := by simp [State.resetWith]
  clear_of_no_error _ := ⟨rfl, rfl⟩
  view_nonempty a hk := by cases a <;> exact absurd rfl hk
  buf_wf sp := by cases sp <;> exact ⟨.nil, nofun⟩

theorem State.hardReset_inv {s : State} (h : s.Inv) : s.hardReset.Inv :=
  (State.resetWith_inv h.par_legal).update_free

theorem State.resetRegisters_inv {s : State} (h : s.Inv) : s.resetRegisters.Inv :=
  { State.resetWith_inv h.par_legal with
    buf_wf := fun sp => by cases sp <;> exact h.buf_wf _ }

/-- Settles O20: the parameter values of log 3 are legal. -/
theorem resetMeetsTheInvariant : Obligations.ResetMeetsTheInvariant :=
  State.resetWith_inv (by decide +kernel)

/-! ## The states the operations leave -/

namespace State.Inv

variable {s : State}

theorem newCommand (h : s.Inv) (a : Arena) {k : Kind} {l : Layout} (hl : s.layout k = some l) :
    (s.newCommand a k l).Inv := by
  obtain ⟨hpos, hle⟩ := Params.legal_layout h.par_legal hl
  obtain ⟨⟨_, hcap⟩, -⟩ := Params.legal_caps h.par_legal
  have hlen := blankCommand_length (s.par.sig k) l hpos
  have hb := h.writeArena (a := a) (lo := 0) (bs := blankCommand (s.par.sig k) l) (by omega)
  have ht := hb.setLen (a := a) (n := l.len) (by simpa) (fun _ => hpos)
  refine (ht.setKind (a := a) (k := some k) fun _ => ?_).setNext ?_
  · rw [State.setLen_len _ _ _ _ (by omega), if_pos rfl]
    exact hpos
  · simpa using le_trans hpos hle

theorem storeField (h : s.Inv) {a : Arena} {off : Nat} {bs : List Byte} (hs : off + bs.length ≤ s.len a) :
    (s.storeField a off bs).Inv := by
  have hcap := le_trans hs (h.len_le a)
  exact (h.writeArena hcap).setNext (by simpa)

theorem deliver (h : s.Inv) {bs : List Byte} {stop : Nat} (hbs : bs.length ≤ 65535) (hs : stop ≤ s.par.bufCap) :
    (s.deliver bs stop).Inv := by
  have hw : (s.writeBytes .fld 0 bs).Inv := h.writeBytes (.inl (by simpa [Space.cap, Config.fldCap]))
  have ht : State.Inv { s.writeBytes .fld 0 bs with fldlen := BitVec.ofNat 16 bs.length } := hw.update_free
  exact ht.setNext (by simpa)

theorem deliverNumber (h : s.Inv) {v stop : Nat} (hs : stop ≤ s.par.bufCap) : (s.deliverNumber v stop).Inv := by
  have ht : State.Inv { s with val := BitVec.ofNat 64 v } := h.update_free
  exact ht.setNext hs

theorem resize (h : s.Inv) {a : Arena} {off p old new : Nat} (hpre : 1 ≤ p) (hs : off + p + old ≤ s.len a)
    (hroom : s.len a - old + new ≤ s.par.bufCap) : (s.resize a off p old new).Inv := by
  unfold State.resize
  split
  · exact h
  · exact (h.writeArena (by rw [State.readBytes_length]; omega)).setLen (by simpa) (fun _ => by omega)

theorem installed (h : s.Inv) {a : Arena} {off old : Nat} {pre body : List Byte} (hpre : 1 ≤ pre.length)
    (hs : off + pre.length + old ≤ s.len a) (hroom : s.len a - old + body.length ≤ s.debsize.toNat) :
    (s.installed a off old pre body).Inv := by
  have hcap : s.len a - old + body.length ≤ s.par.bufCap := le_trans hroom h.debsize_le
  have ht := h.resize hpre hs hcap
  have hpar : (s.resize a off pre.length old body.length).par = s.par := by
    unfold State.resize; split <;> simp
  refine ((ht.writeArena ?_).writeArena ?_).setNext ?_ <;> simp only [State.writeBytes_par, hpar] <;> omega

theorem appendEncoded (h : s.Inv) {a : Arena} (hle : s.fpos.toNat ≤ s.flen.toNat) :
    (s.appendEncoded a (s.encoded a)).Inv := by
  obtain ⟨hbytes, hused⟩ := s.encoded_le a
  have hdeb := h.debsize_le
  have hlen := h.len_le a
  have hflen := h.flen_le
  have hcap : s.len a + (s.encoded a).bytes.length ≤ s.par.bufCap := by omega
  have ht : ((s.writeBytes a.space (s.len a) (s.encoded a).bytes).setLen a
      (s.len a + (s.encoded a).bytes.length)).Inv :=
    (h.writeArena hcap).setLen (by simpa)
      (fun hk => le_trans (h.view_nonempty a (by simpa using hk)) (Nat.le_add_right ..))
  have hfpos : s.fpos.toNat + (s.encoded a).used ≤ s.par.fbufCap := by omega
  exact ht.update_cursors (le_trans (toNat_ofNat_le ..) (by simpa using hfpos)) ht.flen_le ht.dpos_le

theorem appendDecoded (h : s.Inv) {a : Arena} (hle : s.dpos.toNat ≤ s.len a) :
    (s.appendDecoded (s.decoded a)).Inv := by
  obtain ⟨hbytes, hused⟩ := s.decoded_le a
  have hflen := h.flen_le
  have hlen := h.len_le a
  have ht : (s.writeBytes .fbuf s.flen.toNat (s.decoded a).bytes).Inv :=
    h.writeBytes (.inl (by simp only [Space.cap]; omega))
  have hflen' : s.flen.toNat + (s.decoded a).bytes.length ≤ s.par.fbufCap := by omega
  have hdpos : s.dpos.toNat + (s.decoded a).used ≤ s.par.bufCap := by omega
  exact ht.update_cursors ht.fpos_le (le_trans (toNat_ofNat_le ..) (by simpa using hflen'))
    (le_trans (toNat_ofNat_le ..) (by simpa using hdpos))

theorem checked (h : s.Inv) {a : Arena} (k : Kind) (hpos : 1 ≤ s.len a) : (s.checked a k).Inv := by
  obtain ⟨⟨hcap, _⟩, -⟩ := Params.legal_caps h.par_legal
  have ht := h.setKind (a := a) (k := some k) (fun _ => hpos)
  unfold State.checked
  split
  · exact ht.update_cursors ht.fpos_le ht.flen_le (by simpa)
  · exact ht

theorem streamStarted (h : s.Inv) : s.streamStarted.Inv :=
  h.update_cursors (fpos := 0) (flen := 0) (Nat.zero_le _) (Nat.zero_le _) h.dpos_le

/-- An operation that completes keeps the invariant. -/
theorem completes {i : Instr} {t : State} (h : s.Inv) (hc : Completes s i t) : t.Inv := by
  have hlen := h.len_le
  cases hc with
  | nop | rleos => exact h
  | sreset => exact State.resetRegisters_inv h
  | new hl => exact h.newCommand _ hl
  | check _ hpos => exact h.checked _ hpos
  | puta _ hs hw => exact h.storeField (by rwa [padded_length (by rwa [State.staged_length])])
  | @geta _ _ w _ hs =>
    have := w.isLt
    exact h.deliver (by simp only [List.length_map, State.readBytes_length]; omega) (le_trans hs (hlen _))
  | putn _ hs => exact h.storeField (by rwa [dec_length])
  | putu _ hs => exact h.storeField (by rwa [be_length])
  | getn _ hs | getu _ hs => exact h.deliverNumber (le_trans hs (hlen _))
  | putt hs hroom => exact h.installed (by simp) (by rwa [dec_length]) hroom
  | putb hs hroom => exact h.installed (by simp) (by rwa [be_length]) hroom
  | gett hs hn | getb hs hn =>
    exact h.deliver (by rw [State.readBytes_length]; omega) (le_trans hs (hlen _))
  | rlenc _ hle => exact h.appendEncoded hle
  | rldec _ hle => exact (h.appendDecoded hle).update_free
  | rlinit => exact h.streamStarted
  | crinit | crtake | crgrant => exact h.update_free

/-- An operation that raises keeps the invariant: the dump is at most 256 bytes (10_state.md R43). -/
theorem raised {i : Instr} {t : State} (h : s.Inv) (hr : Raised s i t) : t.Inv := by
  cases hr with
  | check => exact h.recordError (Nat.min_le_right ..)
  | subrec _ hle => exact (h.appendDecoded hle).recordError (Nat.zero_le _)
  | plain => exact h.recordError (Nat.zero_le _)

theorem exec {i : Instr} {t : State} (h : s.Inv) (hx : exec i s = .next t) : t.Inv := by
  rcases exec_spec hx with hr | hc
  · exact h.raised hr
  · exact h.completes hc

/-! ## Host accesses -/

theorem writeLen (h : s.Inv) (a : Arena) (v : RegWord) : (s.writeLen a v).Inv := by
  unfold State.writeLen
  split
  · rename_i hv
    -- the view ends first: `LEN[a]` may become 0 only where there is none
    have hended : (s.setKind a none).Inv := h.setKind (fun hk => absurd rfl hk)
    rw [State.setKind_setLen_comm]
    exact hended.setLen (by simpa) (by simp)
  · exact h

theorem writeReg (h : s.Inv) (r : Reg) (v : RegWord) : (s.writeReg r v).Inv := by
  obtain ⟨⟨_, hcap⟩, _, hfcap⟩ := Params.legal_caps h.par_legal
  have hstored : (v.setWidth 18).toNat ≤ v.toNat := by simpa using Nat.mod_le _ _
  cases r <;> simp only [State.writeReg]
  case id | status | errinfo | dumplen | op | nxt | kind0 | kind1 | credit => exact h
  case ctrl | val | fldlen | credmax | codec => exact h.update_free
  case err => exact h.acknowledge
  case len0 | len1 => exact h.writeLen _ v
  case debsize =>
    split
    · rename_i hv
      exact h.update_debsize (by rw [BitVec.toNat_setWidth]; omega) (by omega)
    · exact h
  case fpos =>
    split
    · exact h.update_cursors (by omega) h.flen_le h.dpos_le
    · exact h
  case flen =>
    split
    · exact h.update_cursors h.fpos_le (by omega) h.dpos_le
    · exact h
  case dpos =>
    split
    · exact h.update_cursors h.fpos_le h.flen_le (by omega)
    · exact h

theorem hostWriteByte (h : s.Inv) {sp : Space} {i : Nat} (hi : i < sp.cap s.par) (b : Byte) :
    (s.hostWriteByte sp i b).Inv := by
  have ht : (s.writeBytes sp i [b]).Inv := h.writeBytes (.inl hi)
  cases sp
  case fld | fbuf => exact ht
  case a0 => exact ht.setKind (a := .a0) (fun hk => absurd rfl hk)
  case a1 => exact ht.setKind (a := .a1) (fun hk => absurd rfl hk)

theorem writeOp {v : RegWord} {t : State} (h : s.Inv) (hx : writeOp v s = .next t) : t.Inv := by
  rcases writeOp_spec hx with ⟨_, rfl⟩ | ⟨_, _, rfl⟩ | ⟨_, i, _, hi⟩
  · exact h
  · exact h.recordError (Nat.zero_le _)
  · exact h.exec hi

theorem serve {x : HostAccess} {t : State} (h : s.Inv) (hx : serve x s = .next t) : t.Inv := by
  cases x with
  | read width offset =>
    obtain ⟨v, rfl⟩ := serve_read_spec hx
    exact h.update_free
  | write width offset v =>
    rcases serve_write_spec hx with ⟨_, _, ho⟩ | ⟨r, _, rfl⟩ | ⟨sp, i, hi, rfl⟩
    · exact h.writeOp ho
    · exact h.writeReg r v
    · exact h.hostWriteByte hi _
  | rst =>
    cases hx
    exact State.hardReset_inv h

end State.Inv

/-- Settles O21: a step is one host access on a state that differs in the queue and the reply alone. -/
theorem everyStepKeepsTheInvariant : Obligations.EveryStepKeepsTheInvariant := by
  intro s t h hstep
  unfold step at hstep
  split at hstep
  · cases hstep
    exact h
  · rename_i x rest _
    have haccept : (s.accept rest).Inv := h.update_free
    exact haccept.serve hstep

end Sys2Proof.Machine
end

section
/-! PROOFS of the state family, the operation word (30_encoding.md R100 to R112): a value that decodes is the
encoding of its operation, and no case of R108 holds of it. -/

namespace Sys2Proof

/-! ## A word is assembled of its fields -/

theorem assemble_fields {x : Word} {o : Opcode} (ho : o.code = opcField x) :
    assemble o (aField x) (offField x) (wField x) = x := by
  unfold assemble
  rw [ho]
  unfold opcField aField offField wField
  apply BitVec.eq_of_getLsbD_eq
  intro i hi
  interval_cases i <;> simp

theorem Opcode.code_of_ofCode {c : BitVec 6} {o : Opcode} (h : Opcode.ofCode c = some o) : o.code = c := by
  simpa using List.find?_some h

theorem Kind.number_of_ofNumber {n : Nat} {k : Kind} (h : Kind.ofNumber n = some k) : k.number = n := by
  obtain ⟨hn, rfl⟩ := List.getElem?_eq_some_iff.1 h
  change n < 18 at hn
  interval_cases n <;> rfl

/-- The kind operand, with zero bits above it in its field (R101, R102). -/
theorem wField_of_kindField {x : Word} (hzero : x.extractLsb' 5 3 = 0) :
    wField x = BitVec.ofNat 8 (kindField x).toNat := by
  have hbits := congrArg BitVec.toNat hzero
  apply BitVec.eq_of_toNat_eq
  simp [wField, kindField, Nat.shiftRight_eq_div_pow] at hbits ⊢
  omega

/-! ## Decoding -/

theorem inRange_eq_ok {i j : Instr} (h : inRange i = .ok j) : j = i ∧ i.wellFormed = true := by
  unfold inRange at h
  split at h
  · cases h
    exact ⟨rfl, ‹_›⟩
  · cases h

/-- A row's operands, read from a word whose must-be-zero fields are zero, assemble to that word again. -/
theorem Opcode.operands_spec {o : Opcode} {x : Word} {i : Instr} (ho : o.code = opcField x)
    (hfits : o.format.fits x = true) (h : o.operands x = .ok i) : x = encode i ∧ i.wellFormed = true := by
  have hx := assemble_fields ho
  cases o <;> simp only [Opcode.operands] at h <;>
    simp only [Opcode.format, Format.fits, Bool.and_eq_true, beq_iff_eq] at hfits
  case nop | sreset | rleos | rlinit | crinit | crtake | crgrant =>
    obtain ⟨⟨ha, hoff⟩, hw⟩ := hfits
    rw [ha, hoff, hw] at hx
    cases h
    exact ⟨hx.symm, rfl⟩
  case rlenc | rldec =>
    obtain ⟨hoff, hw⟩ := hfits
    rw [hoff, hw] at hx
    cases h
    exact ⟨by rw [encode, Arena.bit_ofBit, hx], rfl⟩
  case putt | gett | putb | getb =>
    rw [hfits] at hx
    cases h
    exact ⟨by rw [encode, Arena.bit_ofBit, hx], rfl⟩
  case puta | geta | putn | getn | putu | getu =>
    obtain ⟨rfl, hwf⟩ := inRange_eq_ok h
    exact ⟨by rw [encode, Arena.bit_ofBit, hx], hwf⟩
  case new =>
    obtain ⟨hoff, hzero⟩ := hfits
    rw [hoff, wField_of_kindField hzero] at hx
    split at h
    · rename_i k hk
      cases h
      rw [encode, Arena.bit_ofBit, Kind.number_of_ofNumber hk]
      exact ⟨hx.symm, rfl⟩
    · cases h
  case check =>
    obtain ⟨hoff, hzero⟩ := hfits
    rw [hoff, wField_of_kindField hzero] at hx
    split at h
    · rename_i hany
      cases h
      rw [encode, Arena.bit_ofBit, Kind.numberOrNone, ← hany]
      exact ⟨hx.symm, rfl⟩
    · split at h
      · rename_i k hk
        cases h
        rw [encode, Arena.bit_ofBit, Kind.numberOrNone, Kind.number_of_ofNumber hk]
        exact ⟨hx.symm, rfl⟩
      · cases h

theorem decodeWord_spec {x : Word} {i : Instr} (h : decodeWord x = .ok i) :
    x = encode i ∧ i.wellFormed = true := by
  unfold decodeWord at h
  split at h
  · cases h
  · rename_i o ho
    split at h
    · exact Opcode.operands_spec (Opcode.code_of_ofCode ho) ‹_› h
    · cases h

/-- A value that decodes is the word of its operation, zero-extended, and the operation is legal. -/
theorem decode_spec {v : RegWord} {i : Instr} (h : decode v = .ok i) :
    v = encodeOp i ∧ i.wellFormed = true := by
  unfold decode at h
  split at h
  · rename_i hupper
    obtain ⟨hword, hwf⟩ := decodeWord_spec h
    refine ⟨?_, hwf⟩
    rw [encodeOp, ← hword]
    have hhigh : v.toNat / 2 ^ 32 = 0 := by
      have := congrArg BitVec.toNat hupper
      simp [Nat.shiftRight_eq_div_pow] at this
      omega
    apply BitVec.eq_of_toNat_eq
    simp only [BitVec.toNat_setWidth]
    omega
  · cases h

/-! ## The numbers of R108 -/

theorem fields_toNat (x : Word) :
    x.toNat / 2 ^ 26 = (opcField x).toNat ∧ x.toNat / 2 ^ 25 % 2 = (aField x).toNat ∧
      x.toNat / 2 ^ 8 % 2 ^ 17 = (offField x).toNat ∧ x.toNat % 256 = (wField x).toNat := by
  have hx := x.isLt
  simp [opcField, aField, offField, wField, Nat.shiftRight_eq_div_pow]
  omega

end Sys2Proof

namespace Sys2Proof.Machine

/-- The three cases of R108 that a word of 32 bits can fall in. -/
theorem illegalValue_word {x : Word} (h : IllegalValue (x.setWidth 64)) :
    ReservedOpc (opcField x).toNat ∨
    NonzeroReserved (opcField x).toNat (aField x).toNat (offField x).toNat (wField x).toNat ∨
    OperandOutOfRange (opcField x).toNat (wField x).toNat := by
  have hx := x.isLt
  have hwide : (x.setWidth 64).toNat = x.toNat := by
    rw [BitVec.toNat_setWidth]
    omega
  obtain ⟨hopc, ha, hoff, hw⟩ := fields_toNat x
  unfold IllegalValue at h
  simp only [hwide, hopc, ha, hoff, hw] at h
  refine h.resolve_left ?_
  omega

/-- The word of a legal operation falls in no case of R108. -/
theorem not_illegalValue_encodeOp {i : Instr} (hi : i.wellFormed = true) : ¬ IllegalValue (encodeOp i) := by
  intro h
  replace h := illegalValue_word h
  cases i <;> simp only [encode, opcField_assemble, aField_assemble, offField_assemble, wField_assemble] at h <;>
    simp [Opcode.code, ReservedOpc, NonzeroReserved, OperandOutOfRange] at h
  case new a k =>
    have := k.number_lt
    omega
  case check a e =>
    cases e with
    | none => simp [Kind.numberOrNone, noKind] at h
    | some k =>
      have := k.number_lt
      simp only [Kind.numberOrNone] at h
      omega
  case puta | geta | putn | getn | putu | getu =>
    simp only [Instr.wellFormed, widthIn, Bool.and_eq_true, decide_eq_true_eq] at hi
    omega

theorem decode_of_illegalValue {v : RegWord} (h : IllegalValue v) : ∃ e, decode v = .error e := by
  cases hd : decode v with
  | error e => exact ⟨e, rfl⟩
  | ok i =>
    obtain ⟨rfl, hi⟩ := decode_spec hd
    exact absurd h (not_illegalValue_encodeOp hi)

end Sys2Proof.Machine
end

section
/-! PROOFS of the state family, the frames of the operations: which registers, flags and bytes each state of
`Raised` and `Completes` leaves as they were (10_state.md R30, R41, R43, R53, 60_exceptions.md R275, R276). -/

namespace Sys2Proof.Machine

/-! ## The fields the named updates leave alone -/

section
variable (s : State) (a : Arena) (off p old new : Nat)

@[simp] theorem State.resize_par : (s.resize a off p old new).par = s.par := by unfold State.resize; split <;> simp
@[simp] theorem State.resize_ctrl : (s.resize a off p old new).ctrl = s.ctrl := by unfold State.resize; split <;> simp
@[simp] theorem State.resize_err : (s.resize a off p old new).err = s.err := by unfold State.resize; split <;> simp
@[simp] theorem State.resize_codec : (s.resize a off p old new).codec = s.codec := by
  unfold State.resize; split <;> simp
@[simp] theorem State.resize_credit : (s.resize a off p old new).credit = s.credit := by
  unfold State.resize; split <;> simp
@[simp] theorem State.resize_credmax : (s.resize a off p old new).credmax = s.credmax := by
  unfold State.resize; split <;> simp

end

/-! ## Errors: what is recorded -/

/-- An operation that completes records no error; only `SRESET` clears one. -/
theorem Completes.err_eq_none {s t : State} {i : Instr} (hc : Completes s i t) (hs : s.err = none) :
    t.err = none := by
  cases hc
  case sreset => rfl
  case check => unfold State.checked; split <;> simpa
  all_goals simpa [State.newCommand, State.storeField, State.deliver, State.deliverNumber, State.installed,
    State.appendEncoded, State.appendDecoded, State.setDdone, State.streamStarted, State.loadCredit]

theorem exec_raised {s t : State} {i : Instr} (h : exec i s = .next t) (hs : s.err = none)
    (ht : t.err ≠ none) : Raised s i t :=
  (exec_spec h).resolve_right fun hc => ht (hc.err_eq_none hs)

theorem exec_completes {s t : State} {i : Instr} (h : exec i s = .next t) (ht : t.err = none) :
    Completes s i t := by
  refine (exec_spec h).resolve_left fun hr => ?_
  cases hr <;> cases ht

/-- Settles O24: the numbers of the codes, and the dump length each way of raising records. -/
theorem errorsRecordTheirCodeWordAndDumpLength : Obligations.ErrorsRecordTheirCodeWordAndDumpLength := by
  refine ⟨fun s r hr => ?_, fun i s t r hs h ht => ?_, fun v s t hs hv h => ?_⟩
  · have hread : (s.readReg .err).toNat = r.code.code.toNat + 2 ^ 32 * r.opw.toNat := by
      rw [State.readReg, hr, errWord_toNat]
    simp +contextual [hread, ErrCode.code]
  · cases exec_raised h hs (by simp [ht]) with
    | @check a _ _ _ hc =>
      cases ht
      refine ⟨rfl, ?_, fun hi => absurd rfl (hi _ _)⟩
      rintro _ _ ⟨⟩
      have hmin := Nat.min_le_right (s.len a) 256
      exact ⟨Nat.mod_eq_of_lt (by omega), by simpa using hc⟩
    | subrec =>
      cases ht
      exact ⟨rfl, nofun, fun _ => rfl⟩
    | plain hi =>
      cases ht
      exact ⟨rfl, fun a e he => absurd he (hi a e), fun _ => rfl⟩
  · obtain ⟨e, hd⟩ := decode_of_illegalValue hv
    rcases writeOp_spec h with ⟨herr, _⟩ | ⟨_, _, rfl⟩ | ⟨_, i, hi, _⟩
    · exact absurd hs herr
    · rfl
    · rw [hd] at hi
      cases hi

end Sys2Proof.Machine
end

section
/-! PROOFS of the state family, live views, registers, flags and bytes: what each operation and each host access
leaves as it was (10_state.md R30, R53). -/

namespace Sys2Proof.Machine

/-! ## Live views (10_state.md R30) -/

section
variable (s : State) (a b : Arena)

@[simp] theorem State.storeField_kind (off : Nat) (bs : List Byte) : (s.storeField a off bs).kind b = s.kind b := by
  simp [State.storeField]
@[simp] theorem State.deliver_kind (bs : List Byte) (stop : Nat) : (s.deliver bs stop).kind b = s.kind b := by
  cases b <;> rfl
@[simp] theorem State.deliverNumber_kind (v stop : Nat) : (s.deliverNumber v stop).kind b = s.kind b := by
  cases b <;> rfl
@[simp] theorem State.installed_kind (off old : Nat) (pre body : List Byte) :
    (s.installed a off old pre body).kind b = s.kind b := by simp [State.installed]
@[simp] theorem State.appendEncoded_kind (e : Encoded) : (s.appendEncoded a e).kind b = s.kind b := by
  cases b <;> simp [State.appendEncoded, State.kind]
@[simp] theorem State.appendDecoded_kind (d : Decoded) : (s.appendDecoded d).kind b = s.kind b := by
  cases b <;> rfl
@[simp] theorem State.setDdone_kind : (s.setDdone a).kind b = s.kind b := by cases b <;> rfl

theorem State.checked_kind (k : Kind) : (s.checked a k).kind b = if b = a then some k else s.kind b := by
  unfold State.checked
  split
  · cases a <;> cases b <;> rfl
  · exact s.setKind_kind a b (some k)

/-- A host write to a register makes no view. -/
theorem State.writeReg_kind (r : Reg) (v : RegWord) :
    (s.writeReg r v).kind b = s.kind b ∨ (s.writeReg r v).kind b = none := by
  have writeLen_kind (a : Arena) : (s.writeLen a v).kind b = s.kind b ∨ (s.writeLen a v).kind b = none := by
    unfold State.writeLen
    split
    · by_cases hb : b = a <;> simp [hb]
    · exact .inl rfl
  cases r
  case len0 | len1 => exact writeLen_kind _
  case debsize | fpos | flen | dpos =>
    simp only [State.writeReg]
    split <;> exact .inl (by cases b <;> rfl)
  all_goals exact .inl (by cases b <;> rfl)

/-- A host write to a buffer byte makes no view. -/
theorem State.hostWriteByte_kind (sp : Space) (i : Nat) (x : Byte) :
    (s.hostWriteByte sp i x).kind b = s.kind b ∨ (s.hostWriteByte sp i x).kind b = none := by
  cases sp
  case fld | fbuf => exact .inl (by simp [State.hostWriteByte])
  case a0 | a1 => cases b <;> simp [State.hostWriteByte]

end

theorem Raised.kind_eq {s t : State} {i : Instr} (hr : Raised s i t) (a : Arena) : t.kind a = s.kind a := by
  cases hr <;> simp

/-- Among the operations that complete, `NEW` and `CHECK` alone make a view. -/
theorem Completes.new_view {s t : State} {i : Instr} (hc : Completes s i t) {a : Arena} {k : Kind}
    (ht : t.kind a = some k) (hs : s.kind a ≠ some k) :
    i = .new a k ∨ i = .check a (some k) ∨ i = .check a none := by
  cases hc
  case new b k' l hl =>
    simp only [State.newCommand, State.setNext_kind, State.setKind_kind, State.setLen_kind,
      State.writeBytes_kind] at ht
    split at ht
    · cases ht
      subst a
      exact .inl rfl
    · exact absurd ht hs
  case check b e k' he _ =>
    rw [State.checked_kind] at ht
    split at ht
    · cases ht
      subst a
      rcases he with rfl | rfl
      · exact .inr (.inr rfl)
      · exact .inr (.inl rfl)
    · exact absurd ht hs
  case sreset => cases a <;> cases ht
  case rlinit | crinit | crtake | crgrant => exact absurd ht (by cases a <;> exact hs)
  all_goals exact absurd (by simpa using ht) hs

/-- Settles O26: no other access makes a view, and the word written to `OP` is the one of its operation. -/
theorem liveViewsComeOnlyFromNewAndCheck : Obligations.LiveViewsComeOnlyFromNewAndCheck := by
  intro x s t a k h ht hs
  have kept (hk : t.kind a = s.kind a ∨ t.kind a = none) : False := by
    rcases hk with hk | hk <;> rw [hk] at ht
    · exact hs ht
    · cases ht
  cases x with
  | read width offset =>
    obtain ⟨v, rfl⟩ := serve_read_spec h
    exact (kept (.inl (by cases a <;> rfl))).elim
  | rst =>
    cases h
    exact (kept (.inr (by cases a <;> rfl))).elim
  | write width offset v =>
    rcases serve_write_spec h with ⟨rfl, rfl, ho⟩ | ⟨r, _, rfl⟩ | ⟨sp, i, _, rfl⟩
    · rcases writeOp_spec ho with ⟨_, rfl⟩ | ⟨_, _, rfl⟩ | ⟨hnone, i, hd, hx⟩
      · exact (hs ht).elim
      · exact (kept (.inl (by simp))).elim
      · rcases exec_spec hx with hr | hc
        · exact (kept (.inl (hr.kind_eq a))).elim
        · obtain ⟨rfl, -⟩ := decode_spec hd
          exact ⟨i, rfl, hnone, hc.new_view ht hs⟩
    · exact (kept (s.writeReg_kind a r v)).elim
    · exact (kept (s.hostWriteByte_kind a sp i _)).elim

/-! ## Registers (10_state.md R53) -/

section
variable (s : State) (a : Arena)

theorem sameRegs_fldlen (fldlen : BitVec 16) : SameRegsBut [.fldlen] s { s with fldlen } :=
  ⟨rfl, rfl, rfl, rfl, fun r hr => by cases r <;> simp_all [State.readReg, State.status_eq]⟩

theorem sameRegs_val (val : BitVec 64) : SameRegsBut [.val] s { s with val } :=
  ⟨rfl, rfl, rfl, rfl, fun r hr => by cases r <;> simp_all [State.readReg, State.status_eq]⟩

theorem sameRegs_dpos (dpos : BitVec 18) : SameRegsBut [.dpos] s { s with dpos } :=
  ⟨rfl, rfl, rfl, rfl, fun r hr => by cases r <;> simp_all [State.readReg, State.status_eq]⟩

theorem sameRegs_credit (credit : BitVec 32) : SameRegsBut [.credit, .status] s { s with credit } :=
  ⟨rfl, rfl, rfl, rfl, fun r hr => by cases r <;> simp_all [State.readReg]⟩

theorem sameRegs_fpos_codec (fpos : BitVec 18) (codec : Codec) :
    SameRegsBut [.fpos, .codec] s { s with fpos, codec } :=
  ⟨rfl, rfl, rfl, rfl, fun r hr => by cases r <;> simp_all [State.readReg, State.status_eq]⟩

theorem sameRegs_flen_dpos_codec (flen dpos : BitVec 18) (codec : Codec) :
    SameRegsBut [.flen, .dpos, .codec] s { s with flen, dpos, codec } :=
  ⟨rfl, rfl, rfl, rfl, fun r hr => by cases r <;> simp_all [State.readReg, State.status_eq]⟩

theorem State.newCommand_sameRegs (k : Kind) (l : Layout) :
    SameRegsBut [lenReg a, kindReg a, .nxt] s (s.newCommand a k l) :=
  (((s.writeBytes_sameRegs ..).trans (State.setLen_sameRegs _ a _)).trans
    (State.setKind_sameRegs _ a _)).trans (State.setNext_sameRegs ..)

theorem State.checked_sameRegs (k : Kind) : SameRegsBut [kindReg a, .dpos] s (s.checked a k) := by
  unfold State.checked
  split
  · exact (s.setKind_sameRegs a _).trans (sameRegs_dpos _ 1)
  · exact (s.setKind_sameRegs a _).mono (by simp)

theorem State.storeField_sameRegs (off : Nat) (bs : List Byte) :
    SameRegsBut [.nxt] s (s.storeField a off bs) :=
  (s.writeBytes_sameRegs ..).trans (State.setNext_sameRegs ..)

theorem State.deliver_sameRegs (bs : List Byte) (stop : Nat) :
    SameRegsBut [.fldlen, .nxt] s (s.deliver bs stop) :=
  ((s.writeBytes_sameRegs ..).trans (sameRegs_fldlen ..)).trans (State.setNext_sameRegs ..)

theorem State.deliverNumber_sameRegs (v stop : Nat) : SameRegsBut [.val, .nxt] s (s.deliverNumber v stop) :=
  (sameRegs_val ..).trans (State.setNext_sameRegs ..)

theorem State.resize_sameRegs (off p old new : Nat) : SameRegsBut [lenReg a] s (s.resize a off p old new) := by
  unfold State.resize
  split
  · exact .refl _ s
  · exact (s.writeBytes_sameRegs ..).trans (State.setLen_sameRegs ..)

theorem State.installed_sameRegs (off old : Nat) (pre body : List Byte) :
    SameRegsBut [lenReg a, .nxt] s (s.installed a off old pre body) :=
  (((s.resize_sameRegs a ..).trans (State.writeBytes_sameRegs ..)).trans
    (State.writeBytes_sameRegs ..)).trans (State.setNext_sameRegs ..)

theorem State.appendEncoded_sameRegs (e : Encoded) :
    SameRegsBut [lenReg a, .fpos, .codec] s (s.appendEncoded a e) :=
  ((s.writeBytes_sameRegs ..).trans (State.setLen_sameRegs ..)).trans (sameRegs_fpos_codec ..)

theorem State.appendDecoded_sameRegs (d : Decoded) : SameRegsBut [.flen, .dpos, .codec] s (s.appendDecoded d) :=
  (s.writeBytes_sameRegs ..).trans (sameRegs_flen_dpos_codec ..)

theorem State.setDdone_sameRegs : SameRegsBut [.flen, .dpos, .codec] s (s.setDdone a) :=
  sameRegs_flen_dpos_codec s s.flen s.dpos _

theorem State.streamStarted_sameRegs : SameRegsBut [.codec, .fpos, .flen] s s.streamStarted :=
  ⟨rfl, rfl, rfl, rfl, fun r hr => by cases r <;> simp_all [State.streamStarted, State.readReg, State.status_eq]⟩

end

/-- An operation that completes writes the registers its summary names (R53). -/
theorem Completes.sameRegs {s t : State} {i : Instr} (hc : Completes s i t) (hi : i ≠ .sreset) :
    SameRegsBut (writtenRegs i) s t := by
  cases hc with
  | nop | rleos => exact .refl _ s
  | sreset => exact absurd rfl hi
  | new => exact s.newCommand_sameRegs ..
  | check => exact s.checked_sameRegs ..
  | puta | putn | putu => exact s.storeField_sameRegs ..
  | geta | gett | getb => exact s.deliver_sameRegs ..
  | getn | getu => exact s.deliverNumber_sameRegs ..
  | putt | putb => exact s.installed_sameRegs ..
  | rlenc => exact s.appendEncoded_sameRegs ..
  | rldec =>
    exact ((s.appendDecoded_sameRegs _).trans (State.setDdone_sameRegs ..)).mono (by simp [writtenRegs])
  | rlinit => exact s.streamStarted_sameRegs
  | crinit | crtake | crgrant => exact sameRegs_credit ..

/-- The registers error entry writes (60_exceptions.md R275), `STATUS` among them (R36). -/
abbrev errorRegs : List Reg := [.status, .err, .errinfo, .dumplen]

/-- An operation that raises writes the error registers, `RLDEC` also those of its delivery (60_exceptions.md
R276). -/
theorem Raised.sameRegs {s t : State} {i : Instr} (hr : Raised s i t) :
    SameRegsBut (errorRegs ++ writtenRegs i) s t := by
  cases hr with
  | check | plain => exact (s.recordError_sameRegs ..).mono (List.subset_append_left ..)
  | subrec =>
    exact ((s.appendDecoded_sameRegs _).trans (State.recordError_sameRegs ..)).mono (by simp [writtenRegs])

/-- Every operation but `RLDEC` raises before it writes anything (60_exceptions.md R276). -/
theorem Raised.precise {s t : State} {i : Instr} (hr : Raised s i t) (hi : ∀ a, i ≠ .rldec a) :
    SameRegsBut errorRegs s t ∧ SameBytes s t := by
  cases hr with
  | check | plain => exact ⟨s.recordError_sameRegs .., s.recordError_sameBytes _ _ _ _⟩
  | subrec => exact absurd rfl (hi _)

/-! ## The flags of `CODEC` (10_state.md R37, R53) -/

section
variable (s : State) (a : Arena)

@[simp] theorem State.storeField_codec (off : Nat) (bs : List Byte) : (s.storeField a off bs).codec = s.codec := by
  simp [State.storeField]
@[simp] theorem State.deliver_codec (bs : List Byte) (stop : Nat) : (s.deliver bs stop).codec = s.codec := rfl
@[simp] theorem State.deliverNumber_codec (v stop : Nat) : (s.deliverNumber v stop).codec = s.codec := rfl
@[simp] theorem State.newCommand_codec (k : Kind) (l : Layout) : (s.newCommand a k l).codec = s.codec := by
  simp [State.newCommand]
@[simp] theorem State.checked_codec (k : Kind) : (s.checked a k).codec = s.codec := by
  unfold State.checked; split <;> simp
@[simp] theorem State.installed_codec (off old : Nat) (pre body : List Byte) :
    (s.installed a off old pre body).codec = s.codec := by simp [State.installed]

end

/-- `RLENC`, `RLDEC` and `RLINIT` alone write `CODEC`, and the first of them `FDONE` alone. -/
theorem Completes.codec_eq {s t : State} {i : Instr} (hc : Completes s i t) (hi : i ≠ .sreset) (hl : i ≠ .rlinit) :
    ((∀ a, i ≠ .rldec a) → t.codec = { s.codec with fdone := t.codec.fdone }) ∧
    ((∀ a, i ≠ .rlenc a) → t.codec.fdone = s.codec.fdone) := by
  cases hc
  case sreset => exact absurd rfl hi
  case rlinit => exact absurd rfl hl
  case rlenc => exact ⟨fun _ => rfl, fun h => absurd rfl (h _)⟩
  case rldec => exact ⟨fun h => absurd rfl (h _), fun _ => rfl⟩
  all_goals simp [State.loadCredit]

theorem Raised.codec_eq {s t : State} {i : Instr} (hr : Raised s i t) :
    ((∀ a, i ≠ .rldec a) → t.codec = { s.codec with fdone := t.codec.fdone }) ∧
    t.codec.fdone = s.codec.fdone := by
  cases hr with
  | check | plain => exact ⟨fun _ => rfl, rfl⟩
  | subrec => exact ⟨fun h => absurd rfl (h _), rfl⟩

end Sys2Proof.Machine
end

section
/-! PROOFS of the state family, the bytes each operation stores to (files 40 to 45 of spec/, the lines "Writes"). -/

namespace Sys2Proof.Machine

/-! ## Stores to one range -/

/-- `t` has the bytes of `s` outside a range of one buffer, if any (`storedRange` names it); outside the buffer
whatever the parameters are, inside it for legal ones. -/
def StoresOnly (s t : State) : Option (Space × Nat × Nat) → Prop
  | none => SameBytes s t
  | some (sp, lo, n) =>
    (∀ sp' j, sp' ≠ sp → t.readByte sp' j = s.readByte sp' j) ∧
    (s.par.legal = true → SameBytesBut s t sp lo n)

theorem SameBytes.storesOnly {s t : State} (h : SameBytes s t) (range : Option (Space × Nat × Nat)) :
    StoresOnly s t range := by
  cases range with
  | none => exact h
  | some r => exact ⟨fun sp' j _ => h sp' j, fun _ => h.sameBytesBut _ _ _⟩

theorem SameBytesBut.storesOnly {s t : State} {sp : Space} {lo n : Nat} (h : SameBytesBut s t sp lo n) :
    StoresOnly s t (some (sp, lo, n)) :=
  ⟨fun _ _ hq => h _ _ fun ⟨hsp, _⟩ => hq hsp, fun _ => h⟩

/-- A store of a range, followed by updates of registers alone. -/
theorem storesOnly_of_writeBytes {s t : State} {sp : Space} {lo n : Nat} {bs : List Byte}
    (ht : ∀ q i, t.readByte q i = (s.writeBytes sp lo bs).readByte q i)
    (hn : s.par.legal = true → bs.length = n) : StoresOnly s t (some (sp, lo, n)) := by
  refine ⟨fun q j hq => ?_, fun hp q j hj => ?_⟩
  · rw [ht, State.readByte_writeBytes_other s (fun h => hq h.1)]
  · rw [ht]
    exact s.writeBytes_sameBytesBut sp lo bs q j (by rwa [hn hp])

/-! ## The operations -/

theorem State.len_lt (s : State) (a : Arena) : s.len a < 2 ^ 18 := by
  cases a with
  | a0 => exact s.len0.isLt
  | a1 => exact s.len1.isLt

theorem State.checked_sameBytes (s : State) (a : Arena) (k : Kind) : SameBytes s (s.checked a k) := by
  unfold State.checked
  split
  · intro q i
    cases q <;> cases a <;> rfl
  · exact s.setKind_sameBytes a (some k)

/-- `CHECK` writes `DPOS` for a Data command alone (40_frame.md R145). -/
theorem State.checked_dpos (s : State) (a : Arena) {k : Kind} (hk : (s.checked a k).kind a ≠ some .data) :
    (s.checked a k).dpos = s.dpos := by
  rw [State.checked_kind, if_pos rfl] at hk
  unfold State.checked
  rw [if_neg fun h => hk (congrArg some h), State.setKind_dpos]

section
variable {s : State} {a : Arena}

theorem newCommand_storesOnly {k : Kind} {l : Layout} (hl : s.layout k = some l) :
    StoresOnly s (s.newCommand a k l) (some (a.space, 0, l.len)) :=
  storesOnly_of_writeBytes (bs := blankCommand (s.par.sig k) l) (fun q i => by simp [State.newCommand])
    (fun hp => blankCommand_length _ _ (Params.legal_layout hp hl).1)

theorem storeField_storesOnly {off w : Nat} {bs : List Byte} (hw : bs.length = w) :
    StoresOnly s (s.storeField a off bs) (some (a.space, off, w)) :=
  storesOnly_of_writeBytes (by simp) (fun _ => hw)

theorem deliver_storesOnly {n stop : Nat} {bs : List Byte} (hn : bs.length = n) :
    StoresOnly s (s.deliver bs stop) (some (.fld, 0, n)) :=
  storesOnly_of_writeBytes (by simp) (fun _ => hn)

theorem deliver_fldlen {bs : List Byte} (hbs : bs.length ≤ 65535) (stop : Nat) :
    (s.deliver bs stop).fldlen.toNat = bs.length :=
  Nat.mod_eq_of_lt (by omega)

theorem installed_len {off old : Nat} {pre body : List Byte} (hs : off + pre.length + old ≤ s.len a)
    (hroom : s.len a - old + body.length ≤ s.debsize.toNat) :
    (s.installed a off old pre body).len a = s.len a - old + body.length := by
  have hdeb := s.debsize.isLt
  simp only [State.installed, State.setNext_len, State.writeBytes_len]
  rw [State.resize_len s a a (by omega) (by omega), if_pos rfl]

theorem installed_sameBytesBut {off old : Nat} {pre body : List Byte} (hs : off + pre.length + old ≤ s.len a) :
    SameBytesBut s (s.installed a off old pre body) a.space off (s.len a - old + body.length - off) := by
  have hresize : SameBytesBut s (s.resize a off pre.length old body.length) a.space off
      (s.len a - old + body.length - off) := by
    intro q j hj
    rw [State.resize_readByte s a q j hs, if_neg fun ⟨hq, h1, h2⟩ => hj ⟨hq, by omega, by omega⟩]
  have hpre := State.writeBytes_sameBytesBut (s.resize a off pre.length old body.length) a.space off pre
  have hbody := State.writeBytes_sameBytesBut
    ((s.resize a off pre.length old body.length).writeBytes a.space off pre) a.space (off + pre.length) body
  have hnext := State.setNext_sameBytes
    (((s.resize a off pre.length old body.length).writeBytes a.space off pre).writeBytes a.space
      (off + pre.length) body) (off + pre.length + body.length)
  exact ((hresize.trans (hpre.mono (by omega) (by omega))).trans (hbody.mono (by omega) (by omega))).trans
    (hnext.sameBytesBut _ _ _)

theorem installed_storesOnly {off old : Nat} {pre body : List Byte} (hs : off + pre.length + old ≤ s.len a)
    (hroom : s.len a - old + body.length ≤ s.debsize.toNat) :
    StoresOnly s (s.installed a off old pre body)
      (some (a.space, off, (s.installed a off old pre body).len a - off)) := by
  rw [installed_len hs hroom]
  exact (installed_sameBytesBut hs).storesOnly

theorem appendEncoded_storesOnly :
    StoresOnly s (s.appendEncoded a (s.encoded a))
      (some (a.space, s.len a, (s.appendEncoded a (s.encoded a)).len a - s.len a)) := by
  obtain ⟨hbytes, -⟩ := s.encoded_le a
  have hdeb := s.debsize.isLt
  have hlen := s.len_lt a
  have hsum : (s.appendEncoded a (s.encoded a)).len a = s.len a + (s.encoded a).bytes.length := by
    have := (s.writeBytes a.space (s.len a) (s.encoded a).bytes).setLen_len a a
      (s.len a + (s.encoded a).bytes.length) (by omega)
    rw [if_pos rfl] at this
    rw [← this]
    cases a <;> rfl
  have hwrite (q : Space) (i : Nat) : (s.appendEncoded a (s.encoded a)).readByte q i =
      ((s.writeBytes a.space (s.len a) (s.encoded a).bytes).setLen a
        (s.len a + (s.encoded a).bytes.length)).readByte q i := by cases q <;> rfl
  refine storesOnly_of_writeBytes (fun q i => by rw [hwrite, State.setLen_readByte]) (fun _ => ?_)
  omega

/-- The delivery of `RLDEC`, whatever it writes to other registers after it. -/
theorem appendDecoded_storesOnly {t : State} (ht : SameBytes (s.appendDecoded (s.decoded a)) t)
    (hflen : t.flen = (s.appendDecoded (s.decoded a)).flen) :
    StoresOnly s t (some (.fbuf, s.flen.toNat, t.flen.toNat - s.flen.toNat)) := by
  obtain ⟨hbytes, -⟩ := s.decoded_le a
  have hflen_lt := s.flen.isLt
  have hwrite (q : Space) (i : Nat) : (s.appendDecoded (s.decoded a)).readByte q i =
      (s.writeBytes .fbuf s.flen.toNat (s.decoded a).bytes).readByte q i := by cases q <;> rfl
  refine storesOnly_of_writeBytes (fun q i => (ht q i).trans (hwrite q i)) (fun hp => ?_)
  obtain ⟨-, _, hcap⟩ := Params.legal_caps hp
  have hsum : (s.appendDecoded (s.decoded a)).flen.toNat = s.flen.toNat + (s.decoded a).bytes.length :=
    Nat.mod_eq_of_lt (by omega)
  rw [hflen]
  omega

end

/-- An operation that completes stores to its range alone. -/
theorem Completes.storesOnly {s t : State} {i : Instr} (hc : Completes s i t) :
    StoresOnly s t (storedRange i s t) := by
  cases hc with
  | nop | rleos => exact .refl s
  | sreset => exact SameBytes.storesOnly (by simp [SameBytes]) _
  | @new a k l hl =>
    simp only [storedRange, hl, Option.map_some]
    exact newCommand_storesOnly hl
  | check => exact s.checked_sameBytes _ _
  | puta _ _ hw => exact storeField_storesOnly (padded_length (by rwa [State.staged_length]))
  | putn => exact storeField_storesOnly (dec_length ..)
  | putu => exact storeField_storesOnly (be_length ..)
  | geta => exact deliver_storesOnly (by simp)
  | gett _ hn | getb _ hn =>
    exact deliver_storesOnly (deliver_fldlen (by rw [State.readBytes_length]; omega) _).symm
  | getn | getu => exact SameBytes.storesOnly (by simp [SameBytes]) _
  | putt hs hroom => exact installed_storesOnly (by rwa [dec_length]) hroom
  | putb hs hroom => exact installed_storesOnly (by rwa [be_length]) hroom
  | rlenc => exact appendEncoded_storesOnly
  | rldec => exact appendDecoded_storesOnly (fun q i => by cases q <;> rfl) rfl
  | rlinit | crinit | crtake | crgrant => exact fun sp i => by cases sp <;> rfl

theorem Raised.storesOnly {s t : State} {i : Instr} (hr : Raised s i t) :
    StoresOnly s t (storedRange i s t) := by
  cases hr with
  | check | plain => exact SameBytes.storesOnly (s.recordError_sameBytes _ _ _ _) _
  | subrec => exact appendDecoded_storesOnly (State.recordError_sameBytes _ _ _ _ _) rfl

/-- Settles O25: the frames of `Completes` and `Raised`. -/
theorem operationsWriteOnlyWhatTheSummaryNames : Obligations.OperationsWriteOnlyWhatTheSummaryNames := by
  intro i s t hi h
  have hstores : StoresOnly s t (storedRange i s t) := by
    rcases exec_spec h with hr | hc
    · exact hr.storesOnly
    · exact hc.storesOnly
  refine ⟨?_, fun _ ht => (exec_completes h ht).sameRegs hi, fun hs ht hd => (exec_raised h hs ht).precise hd,
    ?_, fun hd hl => ?_, fun he hl => ?_, fun hn => ?_, fun sp lo n hn => ?_⟩
  · rcases exec_spec h with hr | hc
    · exact hr.sameRegs
    · exact (hc.sameRegs hi).mono (List.subset_append_right ..)
  · rintro a e rfl hk
    rcases exec_spec h with hr | hc
    · cases hr <;> rfl
    · cases hc
      exact s.checked_dpos a hk
  · rcases exec_spec h with hr | hc
    · exact hr.codec_eq.1 hd
    · exact (hc.codec_eq hi hl).1 hd
  · rcases exec_spec h with hr | hc
    · exact hr.codec_eq.2
    · exact (hc.codec_eq hi hl).2 he
  · rwa [hn] at hstores
  · rwa [hn] at hstores

end Sys2Proof.Machine
end

section
/-! PROOFS of the state family, independence: what `CREDIT`, `CREDMAX` and `CTRL.VER` hold does not matter to the
operations that do not name them (10_state.md R24, R34, 44_credit.md R245). -/

namespace Sys2Proof.Machine

/-! ## Operations leave the three fields alone -/

/-- No operation but `SRESET` writes `CTRL` or `CREDMAX` (10_state.md R53). -/
theorem Completes.ctrl_credmax_eq {s t : State} {i : Instr} (hc : Completes s i t) (hi : i ≠ .sreset) :
    t.ctrl = s.ctrl ∧ t.credmax = s.credmax := by
  cases hc
  case sreset => exact absurd rfl hi
  case check => unfold State.checked; split <;> simp
  all_goals simp [State.newCommand, State.storeField, State.deliver, State.deliverNumber, State.installed,
    State.appendEncoded, State.appendDecoded, State.setDdone, State.streamStarted, State.loadCredit]

theorem Completes.credit_eq {s t : State} {i : Instr} (hc : Completes s i t)
    (hi : i ∉ [.crinit, .crtake, .crgrant, .sreset]) : t.credit = s.credit := by
  cases hc
  case sreset | crinit | crtake | crgrant => simp at hi
  case check => unfold State.checked; split <;> simp
  all_goals simp [State.newCommand, State.storeField, State.deliver, State.deliverNumber, State.installed,
    State.appendEncoded, State.appendDecoded, State.setDdone, State.streamStarted]

theorem Raised.ctrl_credit_eq {s t : State} {i : Instr} (hr : Raised s i t) :
    t.ctrl = s.ctrl ∧ t.credmax = s.credmax ∧ t.credit = s.credit := by
  cases hr <;> simp [State.appendDecoded]

theorem exec_ctrl_credmax {s t : State} {i : Instr} (h : exec i s = .next t) (hi : i ≠ .sreset) :
    t.ctrl = s.ctrl ∧ t.credmax = s.credmax := by
  rcases exec_spec h with hr | hc
  · obtain ⟨hctrl, hmax, -⟩ := hr.ctrl_credit_eq
    exact ⟨hctrl, hmax⟩
  · exact hc.ctrl_credmax_eq hi

theorem exec_credit {s t : State} {i : Instr} (h : exec i s = .next t)
    (hi : i ∉ [.crinit, .crtake, .crgrant, .sreset]) : t.credit = s.credit := by
  rcases exec_spec h with hr | hc
  · obtain ⟨-, -, hcredit⟩ := hr.ctrl_credit_eq
    exact hcredit
  · exact hc.credit_eq hi

/-! ## The same run on altered fields -/

/-- `s` with other values of `CTRL.VER`, `CREDIT` and `CREDMAX`. -/
def State.altered (s : State) (v : Version) (c m : BitVec 32) : State :=
  { s with ctrl := { s.ctrl with ver := v }, credit := c, credmax := m }

/-- An outcome with its next state changed. -/
def mapNext (f : State → State) : Host.Outcome State Fault Refusal → Host.Outcome State Fault Refusal
  | .next s => .next (f s)
  | .fault r => .fault r
  | .refused r => .refused r

section
variable (s : State) (v : Version) (c m : BitVec 32) (a : Arena)

@[simp] theorem State.altered_par : (s.altered v c m).par = s.par := rfl
@[simp] theorem State.altered_len : (s.altered v c m).len a = s.len a := by cases a <;> rfl
@[simp] theorem State.altered_kind : (s.altered v c m).kind a = s.kind a := by cases a <;> rfl
@[simp] theorem State.altered_readByte (sp : Space) (i : Nat) :
    (s.altered v c m).readByte sp i = s.readByte sp i := by cases sp <;> rfl
@[simp] theorem State.altered_readBytes (sp : Space) (lo n : Nat) :
    (s.altered v c m).readBytes sp lo n = s.readBytes sp lo n := by simp [State.readBytes]
@[simp] theorem State.altered_staged : (s.altered v c m).staged = s.staged := State.altered_readBytes ..
@[simp] theorem State.altered_lastByte : (s.altered v c m).lastByte a = s.lastByte a := by simp [State.lastByte]
@[simp] theorem State.altered_lengthFits (l : Layout) : (s.altered v c m).lengthFits a l = s.lengthFits a l := by
  simp only [State.lengthFits, State.altered_len]
  rfl
theorem State.altered_layout (hv : v = s.ctrl.ver) (k : Kind) : (s.altered v c m).layout k = s.layout k := by
  subst hv; rfl

@[simp] theorem State.altered_encoded : (s.altered v c m).encoded a = s.encoded a := by
  simp only [State.encoded, State.altered_readBytes, State.altered_len]
  rfl
@[simp] theorem State.altered_decoded : (s.altered v c m).decoded a = s.decoded a := by
  simp only [State.decoded, State.altered_readBytes, State.altered_len]
  rfl

theorem State.altered_writeBytes (sp : Space) (lo : Nat) (bs : List Byte) :
    (s.altered v c m).writeBytes sp lo bs = (s.writeBytes sp lo bs).altered v c m := by cases sp <;> rfl
theorem State.altered_setLen (n : Nat) : (s.altered v c m).setLen a n = (s.setLen a n).altered v c m := by
  cases a <;> rfl
theorem State.altered_setKind (k : Option Kind) :
    (s.altered v c m).setKind a k = (s.setKind a k).altered v c m := by cases a <;> rfl
theorem State.altered_setNext (n : Nat) : (s.altered v c m).setNext n = (s.setNext n).altered v c m := rfl

theorem State.altered_newCommand (k : Kind) (l : Layout) :
    (s.altered v c m).newCommand a k l = (s.newCommand a k l).altered v c m := by
  cases a <;> rfl
theorem State.altered_checked (k : Kind) : (s.altered v c m).checked a k = (s.checked a k).altered v c m := by
  unfold State.checked
  split
  · cases a <;> rfl
  · exact s.altered_setKind v c m a (some k)
theorem State.altered_storeField (off : Nat) (bs : List Byte) :
    (s.altered v c m).storeField a off bs = (s.storeField a off bs).altered v c m := by
  cases a <;> rfl
theorem State.altered_resize (off p old new : Nat) :
    (s.altered v c m).resize a off p old new = (s.resize a off p old new).altered v c m := by
  unfold State.resize
  split
  · rfl
  · simp only [State.altered_readBytes, State.altered_len, State.altered_writeBytes, State.altered_setLen]
theorem State.altered_appendEncoded (e : Encoded) :
    (s.altered v c m).appendEncoded a e = (s.appendEncoded a e).altered v c m := by
  cases a <;> rfl
theorem State.altered_setDdone : (s.altered v c m).setDdone a = (s.setDdone a).altered v c m := by
  cases a <;> rfl

/-! ### The shared shapes -/

theorem altered_raiseCheck (i : Instr) (e : ErrCode) (info : Nat) :
    raiseCheck i a e info (s.altered v c m) = mapNext (·.altered v c m) (raiseCheck i a e info s) := by
  cases a <;> rfl

theorem mapNext_ite (f : State → State) {p : Prop} [Decidable p] {x y x' y' : Host.Outcome State Fault Refusal}
    (hx : x' = mapNext f x) (hy : y' = mapNext f y) :
    (if p then x' else y') = mapNext f (if p then x else y) := by
  split
  · exact hx
  · exact hy

theorem altered_inView {i : Instr} {stop : Nat} {body body' : Host.Outcome State Fault Refusal}
    (hbody : body' = mapNext (·.altered v c m) body) :
    inView i a stop (s.altered v c m) body' = mapNext (·.altered v c m) (inView i a stop s body) := by
  simp only [inView, State.altered_kind, State.altered_len]
  exact mapNext_ite _ rfl (mapNext_ite _ hbody rfl)

theorem altered_textField {i : Instr} {off : Nat} {body body' : Nat → Host.Outcome State Fault Refusal}
    (hbody : ∀ n, body' n = mapNext (·.altered v c m) (body n)) :
    textField i a off (s.altered v c m) body' = mapNext (·.altered v c m) (textField i a off s body) := by
  refine altered_inView s v c m a ?_
  simp only [State.altered_readBytes, State.altered_len]
  cases firstBad isDigit (s.readBytes a.space off 3) with
  | some j => rfl
  | none => exact mapNext_ite _ (hbody _) rfl

theorem altered_binaryField {i : Instr} {off : Nat} {body body' : Nat → Host.Outcome State Fault Refusal}
    (hbody : ∀ n, body' n = mapNext (·.altered v c m) (body n)) :
    binaryField i a off (s.altered v c m) body' = mapNext (·.altered v c m) (binaryField i a off s body) := by
  refine altered_inView s v c m a ?_
  simp only [State.altered_readBytes, State.altered_len]
  exact mapNext_ite _ (hbody _) rfl

theorem altered_installVariable (i : Instr) (off old : Nat) (pre body : List Byte) :
    installVariable i a off old pre body (s.altered v c m) =
      mapNext (·.altered v c m) (installVariable i a off old pre body s) := by
  simp only [installVariable, State.altered_len, State.altered_resize, State.altered_writeBytes,
    State.altered_setNext]
  exact mapNext_ite _ rfl rfl

/-! ### The operations -/

theorem execNew_altered (hv : v = s.ctrl.ver) (k : Kind) :
    execNew a k (s.altered v c m) = mapNext (·.altered v c m) (execNew a k s) := by
  simp only [execNew, s.altered_layout v c m hv, State.altered_newCommand]
  cases s.layout k <;> rfl

theorem checkLayout_altered (i : Instr) (k : Kind) (l : Layout) :
    checkLayout i a k l (s.altered v c m) = mapNext (·.altered v c m) (checkLayout i a k l s) := by
  simp only [checkLayout, State.altered_lengthFits, State.altered_lastByte, State.altered_len,
    State.altered_checked, altered_raiseCheck]
  exact mapNext_ite _ (mapNext_ite _ rfl rfl) rfl

theorem checkAny_altered (hv : v = s.ctrl.ver) (i : Instr) :
    checkAny i a (s.altered v c m) = mapNext (·.altered v c m) (checkAny i a s) := by
  simp only [checkAny, s.altered_layout v c m hv, State.altered_par, State.altered_len, State.altered_readByte,
    checkLayout_altered, altered_raiseCheck]
  refine mapNext_ite _ rfl ?_
  cases s.par.kindOfSig (s.readByte a.space 0) with
  | none => rfl
  | some k =>
    dsimp only
    cases s.layout k <;> rfl

theorem checkKind_altered (hv : v = s.ctrl.ver) (i : Instr) (k : Kind) :
    checkKind i a k (s.altered v c m) = mapNext (·.altered v c m) (checkKind i a k s) := by
  simp only [checkKind, s.altered_layout v c m hv, State.altered_len, State.altered_readByte,
    checkLayout_altered, altered_raiseCheck]
  cases s.layout k with
  | none => rfl
  | some l => exact mapNext_ite _ rfl (mapNext_ite _ rfl rfl)

theorem execCheck_altered (hv : v = s.ctrl.ver) (e : Option Kind) :
    execCheck a e (s.altered v c m) = mapNext (·.altered v c m) (execCheck a e s) := by
  cases e with
  | none => exact checkAny_altered s v c m a hv _
  | some k => exact checkKind_altered s v c m a hv _ k

theorem execPuta_altered (off : BitVec 17) (w : BitVec 8) :
    execPuta a off w (s.altered v c m) = mapNext (·.altered v c m) (execPuta a off w s) := by
  refine altered_inView s v c m a (mapNext_ite _ ?_ rfl)
  simp only [State.altered_staged, State.altered_storeField]
  cases firstBad acceptable s.staged <;> rfl

theorem execGeta_altered (off : BitVec 17) (w : BitVec 8) :
    execGeta a off w (s.altered v c m) = mapNext (·.altered v c m) (execGeta a off w s) := by
  refine altered_inView s v c m a ?_
  simp only [State.altered_readBytes]
  cases firstBad acceptable (s.readBytes a.space off.toNat w.toNat) <;> rfl

theorem execGetn_altered (off : BitVec 17) (w : BitVec 8) :
    execGetn a off w (s.altered v c m) = mapNext (·.altered v c m) (execGetn a off w s) := by
  refine altered_inView s v c m a ?_
  simp only [State.altered_readBytes]
  cases firstBad isDigit (s.readBytes a.space off.toNat w.toNat) <;> rfl

theorem execPutt_altered (off : BitVec 17) :
    execPutt a off (s.altered v c m) = mapNext (·.altered v c m) (execPutt a off s) := by
  unfold execPutt
  refine altered_textField s v c m a fun old => ?_
  rw [State.altered_staged]
  exact mapNext_ite _ (altered_installVariable s v c m a ..) rfl

theorem execGett_altered (off : BitVec 17) :
    execGett a off (s.altered v c m) = mapNext (·.altered v c m) (execGett a off s) := by
  unfold execGett
  refine altered_textField s v c m a fun n => ?_
  rw [State.altered_readBytes]
  rfl

theorem execPutb_altered (off : BitVec 17) :
    execPutb a off (s.altered v c m) = mapNext (·.altered v c m) (execPutb a off s) := by
  unfold execPutb
  refine altered_binaryField s v c m a fun old => ?_
  rw [State.altered_staged]
  exact altered_installVariable s v c m a ..

theorem execGetb_altered (off : BitVec 17) :
    execGetb a off (s.altered v c m) = mapNext (·.altered v c m) (execGetb a off s) := by
  unfold execGetb
  refine altered_binaryField s v c m a fun n => ?_
  rw [State.altered_readBytes]
  rfl

theorem execRlenc_altered :
    execRlenc a (s.altered v c m) = mapNext (·.altered v c m) (execRlenc a s) := by
  simp only [execRlenc, State.altered_kind, State.altered_encoded, State.altered_appendEncoded]
  exact mapNext_ite _ (mapNext_ite _ rfl rfl) rfl

theorem execRldec_altered :
    execRldec a (s.altered v c m) = mapNext (·.altered v c m) (execRldec a s) := by
  simp only [execRldec, State.altered_kind, State.altered_len, State.altered_decoded]
  refine mapNext_ite _ (mapNext_ite _ (mapNext_ite _ rfl ?_) rfl) rfl
  exact congrArg Host.Outcome.next ((s.appendDecoded (s.decoded a)).altered_setDdone v c m a)

/-- An operation of no credit unit does the same with other values of `CREDIT` and `CREDMAX`, and, but for `NEW`
and `CHECK`, with another version. -/
theorem exec_altered {i : Instr} (hi : i ∉ [.crinit, .crtake, .crgrant, .sreset])
    (hv : v = s.ctrl.ver ∨ (∀ a k, i ≠ .new a k) ∧ ∀ a e, i ≠ .check a e) :
    exec i (s.altered v c m) = mapNext (·.altered v c m) (exec i s) := by
  cases i with
  | sreset | crinit | crtake | crgrant => simp at hi
  | nop | rlinit => rfl
  | new a k => exact execNew_altered s v c m a (hv.resolve_right fun h => h.1 a k rfl) k
  | check a e => exact execCheck_altered s v c m a (hv.resolve_right fun h => h.2 a e rfl) e
  | puta a off w => exact execPuta_altered s v c m a off w
  | geta a off w => exact execGeta_altered s v c m a off w
  | putn a off w | putu a off w =>
    exact altered_inView s v c m a
      (mapNext_ite _ (congrArg Host.Outcome.next (s.altered_storeField v c m a _ _)) rfl)
  | getn a off w => exact execGetn_altered s v c m a off w
  | getu a off w =>
    refine altered_inView s v c m a ?_
    rw [State.altered_readBytes]
    rfl
  | putt a off => exact execPutt_altered s v c m a off
  | gett a off => exact execGett_altered s v c m a off
  | putb a off => exact execPutb_altered s v c m a off
  | getb a off => exact execGetb_altered s v c m a off
  | rlenc a => exact execRlenc_altered s v c m a
  | rldec a => exact execRldec_altered s v c m a
  | rleos => exact mapNext_ite _ rfl rfl

end

/-- The credit unit does not read the version (10_state.md R24). -/
theorem exec_credit_version {i : Instr} (hi : i ∈ [.crinit, .crtake, .crgrant]) (s : State) (v : Version) :
    exec i { s with ctrl := { s.ctrl with ver := v } } =
      mapNext (fun t => { t with ctrl := { t.ctrl with ver := v } }) (exec i s) := by
  simp only [List.mem_cons, List.not_mem_nil, or_false] at hi
  rcases hi with rfl | rfl | rfl
  · rfl
  · exact mapNext_ite _ rfl rfl
  · exact mapNext_ite _ rfl rfl

/-- Settles O59: `exec_altered` with the version the state has. -/
theorem creditIsApartFromTheOtherUnits : Obligations.CreditIsApartFromTheOtherUnits := by
  intro i s t c m hi h
  obtain ⟨hctrl, hmax⟩ := exec_ctrl_credmax h fun he => hi (by simp [he])
  refine ⟨exec_credit h hi, hmax, ?_⟩
  calc exec i { s with credit := c, credmax := m }
      = mapNext (·.altered s.ctrl.ver c m) (exec i s) := exec_altered s s.ctrl.ver c m hi (.inl rfl)
    _ = .next (t.altered s.ctrl.ver c m) := by rw [h]; rfl
    _ = .next { t with credit := c, credmax := m } := by rw [← hctrl]; rfl

/-- Settles O60: `exec_altered` with the credit the state has, and the credit unit apart. -/
theorem versionIsReadByNewAndCheckAlone : Obligations.VersionIsReadByNewAndCheckAlone := by
  intro i s t v hi h
  obtain ⟨hctrl, hmax⟩ := exec_ctrl_credmax h hi
  refine ⟨hctrl, fun hnew hcheck => ?_⟩
  by_cases hunit : i ∈ [.crinit, .crtake, .crgrant]
  · rw [exec_credit_version hunit, h]
    rfl
  · have hother : i ∉ [.crinit, .crtake, .crgrant, .sreset] := by simpa [hi] using hunit
    have hcredit := exec_credit h hother
    calc exec i { s with ctrl := { s.ctrl with ver := v } }
        = mapNext (·.altered v s.credit s.credmax) (exec i s) :=
          exec_altered s v s.credit s.credmax hother (.inr ⟨hnew, hcheck⟩)
      _ = .next (t.altered v s.credit s.credmax) := by rw [h]; rfl
      _ = .next { t with ctrl := { t.ctrl with ver := v } } := by rw [← hcredit, ← hmax]; rfl

end Sys2Proof.Machine
end

section
/-! PROOFS of the memory family (20_memory.md R71, R74): which accesses of the window the map gives a meaning, and
that those alone are answered. -/

namespace Sys2Proof.Machine

/-! ## The accesses with a meaning -/

/-- The offsets of the 21 registers are the multiples of 8 below `8 * 21`. -/
theorem Reg.exists_offset_eq_iff (offset : Nat) :
    (∃ r : Reg, offset = r.offset) ↔ offset % 8 = 0 ∧ offset < 8 * 21 := by
  constructor
  · rintro ⟨r, rfl⟩
    cases r <;> decide
  · rintro ⟨hmod, hlt⟩
    have hn : offset / 8 < Reg.all.length := (by omega : offset / 8 < 21)
    have ho : Reg.all[offset / 8].offset = 8 * (offset / 8) :=
      Reg.offset_of_getElem? (List.getElem?_eq_getElem hn)
    exact ⟨Reg.all[offset / 8], by omega⟩

/-- The 8-bit half of `Meaningful` in the terms of the model's four buffers. -/
theorem Space.exists_base_add_iff (p : Params) (offset : Nat) :
    (∃ (sp : Space) (i : Nat), i < sp.cap p ∧ offset = sp.base + i) ↔
      (0x20000 ≤ offset ∧ offset < 0x20000 + 65535) ∨
      (0x40000 ≤ offset ∧ offset < 0x40000 + p.bufCap) ∨
      (0x60000 ≤ offset ∧ offset < 0x60000 + p.bufCap) ∨
      (0x80000 ≤ offset ∧ offset < 0x80000 + p.fbufCap) := by
  constructor
  · rintro ⟨sp, i, hi, rfl⟩
    cases sp <;> simp only [Space.base, Space.cap, Config.fldCap] at hi ⊢ <;> omega
  · have inBuffer (sp : Space) (hlo : sp.base ≤ offset) (hhi : offset < sp.base + sp.cap p) :
        ∃ (sp : Space) (i : Nat), i < sp.cap p ∧ offset = sp.base + i :=
      ⟨sp, offset - sp.base, by omega, by omega⟩
    rintro (⟨hlo, hhi⟩ | ⟨hlo, hhi⟩ | ⟨hlo, hhi⟩ | ⟨hlo, hhi⟩)
    · exact inBuffer .fld hlo hhi
    · exact inBuffer .a0 hlo hhi
    · exact inBuffer .a1 hlo hhi
    · exact inBuffer .fbuf hlo hhi

theorem meaningful_iff (p : Params) (width offset : Nat) :
    Meaningful p width offset ↔
      (width = 64 ∧ ∃ r : Reg, offset = r.offset) ∨
      (width = 8 ∧ ∃ (sp : Space) (i : Nat), i < sp.cap p ∧ offset = sp.base + i) := by
  rw [Meaningful, Reg.exists_offset_eq_iff, Space.exists_base_add_iff]

/-! ## What an access inside the window reaches -/

theorem locateReg_spec (width offset : Nat) :
    (∃ r, locateReg width offset = .reg r) ∨ ∃ r, locateReg width offset = .refused r := by
  unfold locateReg
  split
  · exact .inr ⟨_, rfl⟩
  · split
    · exact .inr ⟨_, rfl⟩
    · split
      · exact .inl ⟨_, rfl⟩
      · exact .inr ⟨_, rfl⟩

theorem locateByte_spec (p : Params) (width : Nat) (sp : Space) (i : Nat) :
    locateByte p width sp i = .byte sp i ∨ ∃ r, locateByte p width sp i = .refused r := by
  unfold locateByte
  split
  · exact .inr ⟨_, rfl⟩
  · split
    · exact .inl rfl
    · exact .inr ⟨_, rfl⟩

/-- Inside the window an access reaches a register, the byte its offset names, or is refused: no fault. -/
theorem locate_inside_window (p : Params) (width : Nat) {offset : Nat} (ho : offset < 0xA0000) :
    (∃ r, locate p width offset = .reg r) ∨
    (∃ (sp : Space) (i : Nat), locate p width offset = .byte sp i ∧ offset = sp.base + i) ∨
    ∃ r, locate p width offset = .refused r := by
  have inBuffer (sp : Space) (hlo : ¬ offset < sp.base) :
      (∃ r, locateByte p width sp (offset - sp.base) = .reg r) ∨
      (∃ (sq : Space) (i : Nat), locateByte p width sp (offset - sp.base) = .byte sq i ∧
        offset = sq.base + i) ∨
      ∃ r, locateByte p width sp (offset - sp.base) = .refused r :=
    .inr ((locateByte_spec p width sp (offset - sp.base)).imp_left fun h => ⟨sp, _, h, by omega⟩)
  unfold locate
  split
  · exact (locateReg_spec width offset).imp_right .inr
  · split
    · exact .inr (.inr ⟨_, rfl⟩)
    · rename_i hfld
      split
      · exact inBuffer .fld hfld
      · split
        · exact .inr (.inr ⟨_, rfl⟩)
        · rename_i ha0
          split
          · exact inBuffer .a0 ha0
          · rename_i ha1
            split
            · exact inBuffer .a1 ha1
            · rename_i hfbuf
              exact inBuffer .fbuf hfbuf

/-- An access inside the window that the map gives no meaning is located nowhere. -/
theorem locate_of_not_meaningful {p : Params} {width offset : Nat} (ho : offset < 0xA0000)
    (hm : ¬ Meaningful p width offset) : ∃ r, locate p width offset = .refused r := by
  rw [meaningful_iff] at hm
  rcases locate_inside_window p width ho with ⟨r, hl⟩ | ⟨sp, i, hl, hoff⟩ | hrefused
  · obtain ⟨hw, hoff⟩ := locate_eq_reg hl
    exact (hm (.inl ⟨hw, r, hoff⟩)).elim
  · obtain ⟨hw, hi⟩ := locate_eq_byte hl
    exact (hm (.inr ⟨hw, sp, i, hi, hoff⟩)).elim
  · exact hrefused

/-! ## Refused and answered accesses -/

theorem serve_of_locate_refused {s : State} {width offset : Nat} {r : Refusal}
    (h : locate s.par width offset = .refused r) (v : RegWord) :
    serve (.read width offset) s = .refused r ∧ serve (.write width offset v) s = .refused r := by
  simp [serve, serveRead, serveWrite, h]

/-- A write to `OP` is answered for every value and in every state. -/
theorem writeOp_answers (v : RegWord) (s : State) : Answers (writeOp v s) := by
  unfold writeOp
  split
  · exact answers_next _
  · split
    · exact answers_next _
    · exact exec_answers _ s

theorem serve_writeReg_answers (s : State) (r : Reg) (v : RegWord) :
    Answers (serve (.write 64 r.offset v) s) := by
  by_cases hr : r = .op
  · subst hr
    exact writeOp_answers v s
  · rw [serve_writeReg s hr]
    exact answers_next _

theorem serve_answers_of_meaningful {s : State} (hp : s.par.legal = true) {width offset : Nat}
    (hm : Meaningful s.par width offset) (v : RegWord) :
    Answers (serve (.read width offset) s) ∧ Answers (serve (.write width offset v) s) := by
  rcases (meaningful_iff s.par width offset).1 hm with ⟨rfl, r, rfl⟩ | ⟨rfl, sp, i, hi, rfl⟩
  · exact ⟨⟨_, serve_readReg s r⟩, serve_writeReg_answers s r v⟩
  · exact ⟨⟨_, serve_readByte hp hi⟩, ⟨_, serve_writeByte hp hi v⟩⟩

/-- Settles O11: an access with no meaning is located nowhere (`locate_of_not_meaningful`); one with a meaning
reaches its register or its byte, and each of these answers. -/
theorem accessesOutsideTheMapAreRefusedAndAllOthersAnswered :
    Obligations.AccessesOutsideTheMapAreRefusedAndAllOthersAnswered := by
  intro s width offset v hp ho
  refine ⟨fun hm => ?_, fun hm => serve_answers_of_meaningful hp hm v⟩
  obtain ⟨r, hl⟩ := locate_of_not_meaningful ho hm
  obtain ⟨hread, hwrite⟩ := serve_of_locate_refused hl v
  exact ⟨⟨r, hread⟩, r, hwrite⟩

end Sys2Proof.Machine
end

section
/-! PROOFS of the encoding family (30_encoding.md R100 to R108): decoding reads back every legal operation, a word
that decodes selects one row of the opcode map, and the values that do not decode are the ones R108 lists. -/

namespace Sys2Proof

/-! ## The kind operand is the low part of the width field (R102) -/

theorem kindField_eq (x : Word) : kindField x = (wField x).setWidth 5 := by
  apply BitVec.eq_of_toNat_eq
  simp [kindField, wField]

theorem aboveKindField_eq (x : Word) : x.extractLsb' 5 3 = (wField x).extractLsb' 5 3 := by
  apply BitVec.eq_of_toNat_eq
  simp [wField, Nat.shiftRight_eq_div_pow]

theorem toNat_kindField (x : Word) : (kindField x).toNat = (wField x).toNat % 32 := by
  rw [kindField_eq, BitVec.toNat_setWidth]

theorem toNat_aboveKindField (x : Word) : (x.extractLsb' 5 3).toNat = (wField x).toNat / 32 := by
  have hw := (wField x).isLt
  rw [aboveKindField_eq, BitVec.extractLsb'_toNat, Nat.shiftRight_eq_div_pow]
  omega

/-! ## Decoding an encoding -/

theorem opcField_encode (i : Instr) : opcField (encode i) = i.opcode.code := by
  cases i <;> exact opcField_assemble ..

/-- The encoder writes zero where the format requires it (R101). -/
theorem fits_encode (i : Instr) : i.opcode.format.fits (encode i) = true := by
  cases i <;>
    simp only [encode, Instr.opcode, Opcode.format, Format.fits, aField_assemble, offField_assemble,
      wField_assemble, aboveKindField_eq, BEq.rfl, Bool.and_self, Bool.true_and]
  case new a k => cases k <;> rfl
  case check a e => rcases e with _ | ⟨⟨⟩⟩ <;> rfl

theorem inRange_of_wellFormed {i : Instr} (hi : i.wellFormed = true) : inRange i = .ok i := if_pos hi

/-- Every operand reads back from the word of a legal operation (R102). -/
theorem operands_encode {i : Instr} (hi : i.wellFormed = true) : i.opcode.operands (encode i) = .ok i := by
  cases i <;>
    simp only [encode, Instr.opcode, Opcode.operands, kindField_eq, aField_assemble, offField_assemble,
      wField_assemble, Arena.ofBit_bit]
  case puta | geta | putn | getn | putu | getu => exact inRange_of_wellFormed hi
  case new a k => cases k <;> rfl
  case check a e => rcases e with _ | ⟨⟨⟩⟩ <;> rfl

theorem decodeWord_encode {i : Instr} (hi : i.wellFormed = true) : decodeWord (encode i) = .ok i := by
  simp [decodeWord, opcField_encode, fits_encode, operands_encode hi]

/-- R108 case (1) in numbers. -/
theorem upperBits_eq_zero_iff (v : RegWord) : v.extractLsb' 32 32 = 0 ↔ v.toNat / 2 ^ 32 = 0 := by
  have hv := v.isLt
  rw [← BitVec.toNat_inj, BitVec.extractLsb'_toNat, Nat.shiftRight_eq_div_pow]
  change v.toNat / 2 ^ 32 % 2 ^ 32 = 0 ↔ _
  omega

theorem setWidth_setWidth_word (x : Word) : (x.setWidth 64).setWidth 32 = x := by
  rw [BitVec.setWidth_setWidth_of_le x (by decide), BitVec.setWidth_eq]

theorem decode_setWidth (x : Word) : decode (x.setWidth 64) = decodeWord x := by
  have hx := x.isLt
  have hupper : (x.setWidth 64).extractLsb' 32 32 = 0 := by
    rw [upperBits_eq_zero_iff, BitVec.toNat_setWidth]
    omega
  rw [decode, if_pos hupper, setWidth_setWidth_word]

/-- Settles O2: the word of an operation carries its row's code, fits its row's format, and holds its operands. -/
theorem decodeReadsBackEveryEncoding : Obligations.DecodeReadsBackEveryEncoding := by
  intro i hi
  rw [encodeOp, decode_setWidth, decodeWord_encode hi]

/-- Settles O3: `decode_spec`. -/
theorem everyDecodedValueIsTheEncodingOfItsOperation :
    Obligations.EveryDecodedValueIsTheEncodingOfItsOperation := by
  intro v i h
  obtain ⟨hv, hi⟩ := decode_spec h
  exact ⟨hi, hv⟩

/-- Settles O1: a word of a legal operation is its encoding and so decodes to it; the others are evaluated. -/
theorem wordsWrittenOutInTheSpecDecode : Obligations.WordsWrittenOutInTheSpecDecode := by
  have reads {v : RegWord} (i : Instr) (hi : i.wellFormed = true) (hv : v = encodeOp i) : decode v = .ok i :=
    hv ▸ decodeReadsBackEveryEncoding i hi
  exact ⟨reads _ rfl rfl, reads _ rfl rfl, reads _ rfl rfl, reads _ rfl rfl, reads _ rfl rfl, reads _ rfl rfl,
    reads _ rfl rfl, reads _ rfl rfl, reads _ rfl rfl, reads _ rfl rfl, by decide, by decide, by decide, by decide⟩

/-! ## The row a word selects (R103) -/

theorem Opcode.code_injective : Function.Injective Opcode.code := by
  intro o p h
  simpa [h] using (Opcode.ofCode_code o).symm

theorem opcField_and (x y : Word) : opcField (x &&& y) = opcField x &&& opcField y :=
  BitVec.extractLsb'_and

/-- The `mask` column keeps the whole code, and the `match` column holds it. -/
theorem Opcode.opcField_mask_pattern (o : Opcode) :
    opcField o.mask = BitVec.allOnes 6 ∧ opcField o.pattern = o.code := by
  cases o <;> decide

/-- A row selects only words that carry its code. -/
theorem Opcode.code_of_selects {o : Opcode} {x : Word} (h : x &&& o.mask = o.pattern) : o.code = opcField x := by
  obtain ⟨hmask, hpattern⟩ := o.opcField_mask_pattern
  calc o.code = opcField (x &&& o.mask) := by rw [h, hpattern]
    _ = opcField x := by rw [opcField_and, hmask, BitVec.and_allOnes]

theorem encode_selects : ∀ i : Instr, encode i &&& i.opcode.mask = i.opcode.pattern
  | .nop => Laws.EncodeMatchesRow.nop
  | .sreset => Laws.EncodeMatchesRow.sreset
  | .new a k => Laws.EncodeMatchesRow.new a k
  | .check a e => Laws.EncodeMatchesRow.check a e
  | .puta a off w => Laws.EncodeMatchesRow.puta a off w
  | .geta a off w => Laws.EncodeMatchesRow.geta a off w
  | .putn a off w => Laws.EncodeMatchesRow.putn a off w
  | .getn a off w => Laws.EncodeMatchesRow.getn a off w
  | .putu a off w => Laws.EncodeMatchesRow.putu a off w
  | .getu a off w => Laws.EncodeMatchesRow.getu a off w
  | .putt a off => Laws.EncodeMatchesRow.putt a off
  | .gett a off => Laws.EncodeMatchesRow.gett a off
  | .putb a off => Laws.EncodeMatchesRow.putb a off
  | .getb a off => Laws.EncodeMatchesRow.getb a off
  | .rlenc a => Laws.EncodeMatchesRow.rlenc a
  | .rldec a => Laws.EncodeMatchesRow.rldec a
  | .rleos => Laws.EncodeMatchesRow.rleos
  | .rlinit => Laws.EncodeMatchesRow.rlinit
  | .crinit => Laws.EncodeMatchesRow.crinit
  | .crtake => Laws.EncodeMatchesRow.crtake
  | .crgrant => Laws.EncodeMatchesRow.crgrant

theorem encode_selects_iff (i : Instr) (o : Opcode) : encode i &&& o.mask = o.pattern ↔ o = i.opcode := by
  constructor
  · intro h
    exact Opcode.code_injective ((Opcode.code_of_selects h).trans (opcField_encode i))
  · rintro rfl
    exact encode_selects i

/-- Settles O4: the value is the encoding of its operation, and no two rows share a code. -/
theorem decodedWordSelectsItsRowAlone : Obligations.DecodedWordSelectsItsRowAlone := by
  intro v i h o
  obtain ⟨rfl, -⟩ := decode_spec h
  rw [encodeOp, setWidth_setWidth_word]
  exact encode_selects_iff i o

end Sys2Proof

namespace Sys2Proof.Machine

/-! ## Every value that does not decode is one that R108 lists -/

theorem reservedOpc_of_ofCode_eq_none {c : BitVec 6} (h : Opcode.ofCode c = none) : ReservedOpc c.toNat := by
  unfold ReservedOpc
  revert c
  decide

/-- A field the row's format requires to be zero is not (R101). -/
theorem nonzeroReserved_of_not_fits {o : Opcode} {x : Word} (h : o.format.fits x = false) :
    NonzeroReserved o.code.toNat (aField x).toNat (offField x).toNat (wField x).toNat := by
  have ne_zero_iff {n : Nat} (b : BitVec n) : b ≠ 0 ↔ b.toNat ≠ 0 := by simp [← BitVec.toNat_inj]
  cases o <;>
    simp only [Opcode.format, Format.fits, Bool.and_eq_false_iff, beq_eq_false_iff_ne, ne_zero_iff,
      toNat_aboveKindField] at h <;>
    simp only [NonzeroReserved, Opcode.code]
  case puta | geta | putn | getn | putu | getu => cases h
  case nop | sreset | rleos | rlinit | crinit | crtake | crgrant => exact .inl ⟨by decide, by tauto⟩
  case new | check => exact .inr (.inl ⟨by decide, h⟩)
  case putt | gett | putb | getb => exact .inr (.inr (.inl ⟨by decide, h⟩))
  case rlenc | rldec => exact .inr (.inr (.inr ⟨by decide, h⟩))

theorem le_of_kind_ofNumber_eq_none {n : Nat} (h : Kind.ofNumber n = none) : 18 ≤ n :=
  List.getElem?_eq_none_iff.1 h

theorem not_wellFormed_of_inRange_eq_error {i : Instr} {e : DecodeError} (h : inRange i = .error e) :
    i.wellFormed = false := by
  by_contra hi
  rw [inRange_of_wellFormed (by simpa using hi)] at h
  cases h

/-- An operand of the row is out of its range (R108 case 4). -/
theorem operandOutOfRange_of_operands_eq_error {o : Opcode} {x : Word} {e : DecodeError}
    (h : o.operands x = .error e) : OperandOutOfRange o.code.toNat (wField x).toNat := by
  have hkind := toNat_kindField x
  cases o <;> simp only [Opcode.operands, reduceCtorEq] at h <;> simp [Opcode.code, OperandOutOfRange]
  case new =>
    split at h
    · cases h
    · have := le_of_kind_ofNumber_eq_none ‹_›
      omega
  case check =>
    split at h
    · cases h
    · rename_i hany
      unfold noKind at hany
      split at h
      · cases h
      · have := le_of_kind_ofNumber_eq_none ‹_›
        omega
  case puta | geta | putn | getn | putu | getu =>
    have hwidth := not_wellFormed_of_inRange_eq_error h
    simp [Instr.wellFormed, widthIn] at hwidth
    omega

/-- A word of 32 bits that does not decode falls in case (2), (3) or (4) of R108. -/
theorem decodeWord_error_cases {x : Word} {e : DecodeError} (h : decodeWord x = .error e) :
    ReservedOpc (opcField x).toNat ∨
    NonzeroReserved (opcField x).toNat (aField x).toNat (offField x).toNat (wField x).toNat ∨
    OperandOutOfRange (opcField x).toNat (wField x).toNat := by
  unfold decodeWord at h
  split at h
  · exact .inl (reservedOpc_of_ofCode_eq_none ‹_›)
  · rename_i o ho
    rw [← Opcode.code_of_ofCode ho]
    split at h
    · exact .inr (.inr (operandOutOfRange_of_operands_eq_error h))
    · rename_i hfits
      exact .inr (.inl (nonzeroReserved_of_not_fits (by simpa using hfits)))

theorem illegalValue_of_decode_eq_error {v : RegWord} {e : DecodeError} (h : decode v = .error e) :
    IllegalValue v := by
  unfold decode at h
  split at h
  · rename_i hupper
    have hlow : v.toNat = (v.setWidth 32).toNat := by
      rw [upperBits_eq_zero_iff] at hupper
      rw [BitVec.toNat_setWidth]
      omega
    obtain ⟨hopc, ha, hoff, hw⟩ := fields_toNat (v.setWidth 32)
    right
    simpa only [hlow, hopc, ha, hoff, hw] using decodeWord_error_cases h
  · rename_i hupper
    exact .inl (mt (upperBits_eq_zero_iff v).2 hupper)

theorem writeOp_of_decode_eq_error {s : State} {v : RegWord} {e : DecodeError} (hs : s.err = none)
    (hd : decode v = .error e) : writeOp v s = .next (s.recordError (v.setWidth 32) .illop 0 0) := by
  simp [writeOp, State.errv, hs, hd]

/-- Settles O5: the values R108 lists are those that do not decode (`decode_of_illegalValue`,
`illegalValue_of_decode_eq_error`), and a value that decodes is the encoding of the operation it runs. -/
theorem illegalValuesRaiseIllopAndAllOthersRun : Obligations.IllegalValuesRaiseIllopAndAllOthersRun := by
  intro v s hs
  refine ⟨fun hv => ?_, fun hv => ?_⟩
  · obtain ⟨e, hd⟩ := decode_of_illegalValue hv
    exact writeOp_of_decode_eq_error hs hd
  · cases hd : decode v with
    | error e => exact absurd (illegalValue_of_decode_eq_error hd) hv
    | ok i =>
      obtain ⟨hword, hi⟩ := decode_spec hd
      exact ⟨i, hi, hword.symm, writeOp_of_decode hs hd⟩

end Sys2Proof.Machine
end

section
/-! PROOFS of the frame family (40_frame.md): what a legal `FMT` says of signatures and terminators, the command
`NEW` lays out, and the tests of `CHECK`, with the operand's kind and with the kind found alike. -/

namespace Sys2Proof.Machine

/-! ## Signatures and layouts of a legal `FMT` (30_encoding.md R112, R114) -/

/-- What `Params.legal` says of `FMT`: the column of the signatures, and the constraints on every layout. -/
theorem Params.legal_fmt {p : Params} (hp : p.legal = true) : p.fmt.map FmtRow.sig = Config.signatures ∧
    ∀ r ∈ p.fmt, ∀ v l, r.layout v = some l → l.legal p.bufCap = true := by
  simp only [Params.legal, Bool.and_eq_true, decide_eq_true_eq, List.all_eq_true] at hp
  obtain ⟨⟨⟨-, hsigs⟩, hrows⟩, -⟩ := hp
  refine ⟨hsigs, fun r hr v l hl => ?_⟩
  obtain ⟨hv1, hv2⟩ := hrows r hr
  cases v with
  | v1 => exact (Option.all_eq_true _ _).1 hv1 l hl
  | v2 => exact (Option.all_eq_true _ _).1 hv2 l hl

/-- A legal `FMT` has a row for every kind. -/
theorem Params.getElem?_number {p : Params} (hp : p.legal = true) (k : Kind) : p.fmt[k.number]? = some (p.row k) := by
  have hlen : p.fmt.length = 18 := by
    simpa [Config.signatures] using congrArg List.length (Params.legal_fmt hp).1
  have hk : k.number < p.fmt.length := hlen ▸ k.number_lt
  rw [Params.row, List.getD_eq_getElem _ _ hk, List.getElem?_eq_getElem hk]

theorem Params.signatures_number {p : Params} (hp : p.legal = true) (k : Kind) :
    Config.signatures[k.number]? = some (p.sig k) := by
  rw [← (Params.legal_fmt hp).1, List.getElem?_map, Params.getElem?_number hp]
  rfl

theorem Params.signatures_number_iff {p : Params} (hp : p.legal = true) {k : Kind} {b : Byte} :
    Config.signatures[k.number]? = some b ↔ b = p.sig k := by
  rw [Params.signatures_number hp, Option.some_inj, eq_comm]

theorem Kind.number_injective : Function.Injective Kind.number := fun k j h =>
  Option.some_inj.1 (by rw [← Kind.ofNumber_number k, ← Kind.ofNumber_number j, h])

/-- The signatures of 30_encoding.md R112 are pairwise different. -/
theorem Params.sig_injective {p : Params} (hp : p.legal = true) : Function.Injective p.sig := by
  intro k j h
  have hnodup : Config.signatures.Nodup := by decide
  have hk : k.number < Config.signatures.length := k.number_lt
  apply Kind.number_injective
  apply (List.getElem?_inj hk hnodup).1
  rw [Params.signatures_number hp, Params.signatures_number hp, h]

theorem Params.mem_signatures_iff {p : Params} (hp : p.legal = true) {b : Byte} :
    b ∈ Config.signatures ↔ ∃ k, b = p.sig k := by
  constructor
  · intro hb
    obtain ⟨n, hn, rfl⟩ := List.getElem_of_mem hb
    have hall : n < Kind.all.length := hn
    obtain ⟨k, rfl⟩ : ∃ k : Kind, k.number = n :=
      ⟨Kind.all[n], Kind.number_of_ofNumber (List.getElem?_eq_getElem hall)⟩
    exact ⟨k, (Params.signatures_number_iff hp).1 (List.getElem?_eq_getElem hn)⟩
  · rintro ⟨k, rfl⟩
    exact List.mem_of_getElem? (Params.signatures_number hp k)

theorem Kind.mem_all (k : Kind) : k ∈ Kind.all := List.mem_of_getElem? (Kind.ofNumber_number k)

/-- `CHECK a, ANY` looks up the kind whose signature stands there. -/
theorem Params.kindOfSig_sig {p : Params} (hp : p.legal = true) (k : Kind) : p.kindOfSig (p.sig k) = some k := by
  unfold Params.kindOfSig
  cases hfind : Kind.all.find? (fun j => p.sig j == p.sig k) with
  | none => exact absurd BEq.rfl (List.find?_eq_none.1 hfind k (Kind.mem_all k))
  | some j => rw [Params.sig_injective hp (eq_of_beq (List.find?_some hfind :))]

theorem Params.kindOfSig_of_not_mem {p : Params} (hp : p.legal = true) {b : Byte} (hb : b ∉ Config.signatures) :
    p.kindOfSig b = none :=
  List.find?_eq_none.2 fun k _ hk => hb ((Params.mem_signatures_iff hp).2 ⟨k, (eq_of_beq hk).symm⟩)

/-- A terminator never takes the place of the signature byte. -/
theorem Params.legal_term {p : Params} (hp : p.legal = true) {k : Kind} {v : Version} {l : Layout}
    (hl : p.layout k v = some l) (hterm : l.term = true) : 2 ≤ l.len := by
  have hrow : p.row k ∈ p.fmt := List.mem_of_getElem? (Params.getElem?_number hp k)
  have hlegal := (Params.legal_fmt hp).2 _ hrow v l hl
  simp only [Layout.legal, hterm, Bool.and_eq_true, decide_eq_true_eq] at hlegal
  simpa using hlegal.1.2

/-! ## `NEW` (40_frame.md R141) -/

section
variable {s : State} {a : Arena} {k : Kind} {l : Layout}

theorem exec_new : exec (.new a k) s = execNew a k s := rfl

theorem exec_new_of_layout (hl : s.layout k = some l) : exec (.new a k) s = .next (s.newCommand a k l) := by
  rw [exec_new, execNew, hl]

theorem exec_new_of_no_layout (hl : s.layout k = none) :
    exec (.new a k) s = .next (s.raisedBy (.new a k) .version k.number 0) := by
  rw [exec_new, execNew, hl]
  rfl

/-- The bytes of a blank command: the terminator where there is one, then the signature, then spaces. -/
theorem blankCommand_getElem (sig : Byte) {i : Nat} (hi : i < (blankCommand sig l).length) :
    (blankCommand sig l)[i] = if l.term = true ∧ i = l.len - 1 then 0x0D else if i = 0 then sig else 0x20 := by
  have hspaced (h : i < (sig :: List.replicate (l.len - 1) 0x20).length) :
      (sig :: List.replicate (l.len - 1) (0x20 : Byte))[i] = if i = 0 then sig else 0x20 := by
    cases i <;> simp
  cases hterm : l.term with
  | false => simpa [blankCommand, hterm] using hspaced (by simpa [blankCommand, hterm] using hi)
  | true =>
    simp only [blankCommand, hterm, if_true] at hi ⊢
    rw [List.getElem_set, hspaced (by simpa using hi)]
    simp [eq_comm]

theorem State.newCommand_readByte (hp : s.par.legal = true) (hl : s.layout k = some l) {i : Nat} (hi : i < l.len) :
    (s.newCommand a k l).readByte a.space i =
      if l.term = true ∧ i = l.len - 1 then 0x0D else if i = 0 then s.par.sig k else 0x20 := by
  have hlen := blankCommand_length (s.par.sig k) l (Params.legal_layout hp hl).1
  rw [← blankCommand_getElem (s.par.sig k) (hlen ▸ hi)]
  simp only [State.newCommand, State.setNext_readByte, State.setKind_readByte, State.setLen_readByte]
  rw [State.readByte_writeBytes, dif_pos ⟨rfl, by omega, by omega⟩]
  rfl

theorem State.newCommand_signature (hp : s.par.legal = true) (hl : s.layout k = some l) :
    (s.newCommand a k l).readByte a.space 0 = s.par.sig k := by
  rw [State.newCommand_readByte hp hl (Params.legal_layout hp hl).1, if_neg, if_pos rfl]
  rintro ⟨hterm, h0⟩
  have := Params.legal_term hp hl hterm
  omega

theorem State.newCommand_terminator (hp : s.par.legal = true) (hl : s.layout k = some l) (hterm : l.term = true) :
    (s.newCommand a k l).readByte a.space (l.len - 1) = 0x0D := by
  have := Params.legal_term hp hl hterm
  rw [State.newCommand_readByte hp hl (by omega), if_pos ⟨hterm, rfl⟩]

theorem State.newCommand_len (hp : s.par.legal = true) (hl : s.layout k = some l) :
    (s.newCommand a k l).len a = l.len := by
  obtain ⟨_, hcap⟩ := Params.legal_layout hp hl
  obtain ⟨⟨_, hbuf⟩, -⟩ := Params.legal_caps hp
  simp only [State.newCommand, State.setNext_len, State.setKind_len]
  rw [State.setLen_len _ _ _ _ (by omega), if_pos rfl]

@[simp] theorem State.newCommand_kind_same : (s.newCommand a k l).kind a = some k := by simp [State.newCommand]
@[simp] theorem State.newCommand_par : (s.newCommand a k l).par = s.par := by simp [State.newCommand]
@[simp] theorem State.newCommand_err : (s.newCommand a k l).err = s.err := by simp [State.newCommand]
@[simp] theorem State.newCommand_debsize : (s.newCommand a k l).debsize = s.debsize := by simp [State.newCommand]
@[simp] theorem State.newCommand_layout (j : Kind) : (s.newCommand a k l).layout j = s.layout j := by
  simp [State.newCommand, State.layout]

end

/-- Settles O29: the bytes of the fresh command by `State.newCommand_readByte`, its frame by the frames of the
state `NEW` leaves. -/
theorem newLaysAFreshCommandOrRaisesVersion : Obligations.NewLaysAFreshCommandOrRaisesVersion := by
  intro a k s hp
  refine ⟨by rw [opcField_encode]; rfl, fun l hl => ?_, exec_new_of_no_layout⟩
  refine ⟨s.newCommand a k l, exec_new_of_layout hl, ?signature, ?spaces, State.newCommand_terminator hp hl,
    (newCommand_storesOnly hl).2 hp, State.newCommand_len hp hl, State.newCommand_kind_same, rfl,
    s.newCommand_sameRegs ..⟩
  case signature => rw [State.newCommand_signature hp hl, Params.signatures_number hp]
  case spaces =>
    intro i hi hlen hlast
    rw [State.newCommand_readByte hp hl hlen, if_neg hlast, if_neg (by omega)]

/-! ## The tests of `CHECK` (40_frame.md R145) -/

theorem isTerminator_iff {b : Byte} : isTerminator b = true ↔ b = 0x0D ∨ b = 0x8D := by
  simp [isTerminator]

theorem raiseCheck_raisedBy (i : Instr) (a : Arena) (c : ErrCode) (info : Nat) (s : State) :
    raiseCheck i a c info s = .next (s.raisedBy i c info (min (s.len a) 256)) := rfl

@[simp] theorem State.checked_err (s : State) (a : Arena) (k : Kind) : (s.checked a k).err = s.err := by
  unfold State.checked; split <;> simp

@[simp] theorem State.checked_kind_same (s : State) (a : Arena) (k : Kind) : (s.checked a k).kind a = some k := by
  rw [State.checked_kind, if_pos rfl]

section
variable {s : State} {a : Arena} {k : Kind} {l : Layout} {e : Option Kind}

theorem State.lengthFits_iff : s.lengthFits a l = true ↔
    if l.fixed then s.len a = l.len else l.len ≤ s.len a ∧ s.len a ≤ s.debsize.toNat := by
  unfold State.lengthFits
  split <;> simp

/-! ### From the length test on -/

theorem checkLayout_accepts (i : Instr) (hfit : s.lengthFits a l = true)
    (hterm : l.term = true → isTerminator (s.lastByte a) = true) :
    checkLayout i a k l s = .next (s.checked a k) := by
  rw [checkLayout, if_pos hfit, if_neg]
  cases hl : l.term <;> simp [hl, hterm]

theorem checkLayout_of_length (i : Instr) (hfit : ¬ s.lengthFits a l = true) :
    checkLayout i a k l s = raiseCheck i a .len (s.len a) s := by
  rw [checkLayout, if_neg hfit]

theorem checkLayout_of_terminator (i : Instr) (hfit : s.lengthFits a l = true) (hterm : l.term = true)
    (hlast : ¬ isTerminator (s.lastByte a) = true) :
    checkLayout i a k l s = raiseCheck i a .term (s.lastByte a).toNat s := by
  rw [checkLayout, if_pos hfit, if_pos (by simp [hterm, hlast])]

/-- `t` with the word `w` in the place of the recorded one, if an error is recorded. -/
def State.withOpw (t : State) (w : Word) : State := { t with err := t.err.map fun r => { r with opw := w } }

theorem State.withOpw_of_err_eq_none (hs : s.err = none) (w : Word) : s.withOpw w = s := by
  cases s
  subst hs
  rfl

/-- The operation's word reaches the result through the error record alone. -/
theorem checkLayout_withOpw (i j : Instr) (hs : s.err = none) :
    ∃ t, checkLayout i a k l s = .next t ∧ checkLayout j a k l s = .next (t.withOpw (encode j)) := by
  unfold checkLayout
  split
  · split
    · exact ⟨_, rfl, rfl⟩
    · exact ⟨_, rfl, by rw [State.withOpw_of_err_eq_none (by simpa using hs)]⟩
  · exact ⟨_, rfl, rfl⟩

/-! ### Up to the length test -/

theorem exec_check_some : exec (.check a (some k)) s = checkKind (.check a (some k)) a k s := rfl

theorem exec_check_none : exec (.check a none) s = checkAny (.check a none) a s := rfl

/-- A command that carries the signature of a kind of this version comes to the tests of its layout, whether the
kind was expected or found. -/
theorem exec_check_of_signature (hp : s.par.legal = true) (he : e = some k ∨ e = none) (hlen : 1 ≤ s.len a)
    (hsig : s.readByte a.space 0 = s.par.sig k) (hl : s.layout k = some l) :
    exec (.check a e) s = checkLayout (.check a e) a k l s := by
  have hpos : ¬ s.len a = 0 := by omega
  rcases he with rfl | rfl
  · simp only [exec_check_some, checkKind, hl]
    rw [if_neg hpos, if_pos hsig]
  · simp only [exec_check_none, checkAny, hsig, Params.kindOfSig_sig hp, hl]
    rw [if_neg hpos]

theorem exec_check_of_no_layout (hl : s.layout k = none) :
    exec (.check a (some k)) s = raiseCheck (.check a (some k)) a .version k.number s := by
  rw [exec_check_some, checkKind, hl]

theorem exec_check_of_empty (hl : ∀ k, e = some k → s.layout k ≠ none) (hlen : s.len a = 0) :
    exec (.check a e) s = raiseCheck (.check a e) a .len 0 s := by
  cases e with
  | none => exact if_pos hlen
  | some k =>
    obtain ⟨l, hk⟩ := Option.ne_none_iff_exists'.1 (hl k rfl)
    simp only [exec_check_some, checkKind, hk]
    exact if_pos hlen

theorem exec_check_of_wrong_signature (hl : s.layout k ≠ none) (hlen : 1 ≤ s.len a)
    (hsig : s.readByte a.space 0 ≠ s.par.sig k) :
    exec (.check a (some k)) s =
      raiseCheck (.check a (some k)) a .sig (s.readByte a.space 0).toNat s := by
  obtain ⟨l, hk⟩ := Option.ne_none_iff_exists'.1 hl
  simp only [exec_check_some, checkKind, hk]
  rw [if_neg (by omega), if_neg hsig]

theorem exec_check_any_of_no_signature (hp : s.par.legal = true) (hlen : 1 ≤ s.len a)
    (hsig : s.readByte a.space 0 ∉ Config.signatures) :
    exec (.check a none) s = raiseCheck (.check a none) a .sig (s.readByte a.space 0).toNat s := by
  simp only [exec_check_none, checkAny, Params.kindOfSig_of_not_mem hp hsig]
  exact if_neg (by omega)

theorem exec_check_any_of_no_layout (hp : s.par.legal = true) (hlen : 1 ≤ s.len a)
    (hsig : s.readByte a.space 0 = s.par.sig k) (hl : s.layout k = none) :
    exec (.check a none) s = raiseCheck (.check a none) a .version k.number s := by
  simp only [exec_check_none, checkAny, hsig, Params.kindOfSig_sig hp, hl]
  exact if_neg (by omega)

/-- Signature, length and terminator right: `CHECK` accepts. -/
theorem exec_check_accepts (hp : s.par.legal = true) (he : e = some k ∨ e = none) (hl : s.layout k = some l)
    (hlen : 1 ≤ s.len a) (hsig : s.readByte a.space 0 = s.par.sig k) (hfit : s.lengthFits a l = true)
    (hterm : l.term = true → isTerminator (s.lastByte a) = true) :
    exec (.check a e) s = .next (s.checked a k) := by
  rw [exec_check_of_signature hp he hlen hsig hl, checkLayout_accepts _ hfit hterm]

end

/-- Settles O30: the accepted command by `exec_check_accepts`, its frame by the frames of the state `CHECK`
leaves. -/
theorem checkAcceptsAWellFramedCommand : Obligations.CheckAcceptsAWellFramedCommand := by
  intro a k l s e hp he hl hlen hsig hfixed hvariable hterm
  have hfit : s.lengthFits a l = true := by
    rw [State.lengthFits_iff]
    split
    · exact hfixed ‹_›
    · exact hvariable (Bool.eq_false_of_not_eq_true ‹_›)
  refine ⟨s.checked a k, exec_check_accepts hp he hl hlen ((Params.signatures_number_iff hp).1 hsig) hfit
    fun h => isTerminator_iff.2 (hterm h), s.checked_kind_same a k, ?_, fun hk => ?_, s.checked_sameRegs a k,
    s.checked_sameBytes a k⟩
  · rintro rfl
    rfl
  · exact s.checked_dpos a fun h => hk (Option.some_inj.1 (s.checked_kind_same a k ▸ h))

/-- Settles O31: each clause is the branch of `CHECK` its tests before it leave, the last two behind
`exec_check_of_signature`. -/
theorem checkReportsTheFirstTestThatFails : Obligations.CheckReportsTheFirstTestThatFails := by
  intro a e s hp fails first last
  simp only [fails, ← raiseCheck_raisedBy, Params.signatures_number_iff hp, ← State.lengthFits_iff, Ne]
  refine ⟨?version, exec_check_of_empty, ?wrong, ?unknown, ?found, ?length, ?terminator⟩
  case version =>
    rintro k rfl hl
    exact exec_check_of_no_layout hl
  case wrong =>
    rintro k rfl hl hlen hsig
    exact exec_check_of_wrong_signature hl hlen hsig
  case unknown =>
    rintro rfl hlen hsig
    exact exec_check_any_of_no_signature hp hlen hsig
  case found =>
    rintro k rfl hlen hsig hl
    exact exec_check_any_of_no_layout hp hlen hsig hl
  case length =>
    intro k l he hlen hsig hl hfit
    rw [exec_check_of_signature hp he hlen hsig hl, checkLayout_of_length _ hfit]
  case terminator =>
    intro k l he hlen hsig hl hfit hterm hcr hcrHigh
    rw [exec_check_of_signature hp he hlen hsig hl, checkLayout_of_terminator _ hfit hterm]
    · rfl
    · exact fun h => (isTerminator_iff.1 h).elim hcr hcrHigh

/-- Settles O32: both forms come to the tests of one layout (`exec_check_of_signature`), where the word reaches
the record alone (`checkLayout_withOpw`). -/
theorem checkAnyAgreesWithCheckOfTheKindFound : Obligations.CheckAnyAgreesWithCheckOfTheKindFound := by
  intro a k s hp hs hlen hl hsig
  obtain ⟨l, hk⟩ := Option.ne_none_iff_exists'.1 hl
  rw [Params.signatures_number_iff hp] at hsig
  rw [exec_check_of_signature hp (.inl rfl) hlen hsig hk, exec_check_of_signature hp (.inr rfl) hlen hsig hk]
  exact checkLayout_withOpw _ _ hs

/-- Settles O33: the command `NEW` lays out has the signature, the length and the terminator that
`exec_check_accepts` asks for. -/
theorem freshCommandPassesItsSeal : Obligations.FreshCommandPassesItsSeal := by
  intro a k l s t e hp hs hl hceil he hnew
  obtain rfl : s.newCommand a k l = t := by
    rw [exec_new_of_layout hl] at hnew
    exact Host.Outcome.next.inj hnew
  have hlen : (s.newCommand a k l).len a = l.len := State.newCommand_len hp hl
  have hfit : (s.newCommand a k l).lengthFits a l = true := by
    rw [State.lengthFits_iff, hlen, State.newCommand_debsize]
    split
    · rfl
    · exact ⟨le_rfl, hceil.resolve_left ‹_›⟩
  have hterm (h : l.term = true) : isTerminator ((s.newCommand a k l).lastByte a) = true := by
    rw [State.lastByte, hlen, State.newCommand_terminator hp hl h]
    rfl
  refine ⟨(s.newCommand a k l).checked a k, exec_check_accepts (by simpa) he (by simpa) ?_ ?_ hfit hterm,
    by simpa, State.checked_kind_same .., State.checked_sameBytes _ a k⟩
  · rw [hlen]
    exact (Params.legal_layout hp hl).1
  · rw [State.newCommand_signature hp hl, State.newCommand_par]

end Sys2Proof.Machine
end

section
/-! PROOFS of the fixed-field family, numbers in bytes (00_scope.md R13): the digits of a number in a base and the
value of a string of digits are inverse to each other, for `dec` and `undec` as for `be` and `unbe`. -/

namespace Sys2Proof.Machine

/-! ## Digits in a base -/

/-- The last `w` digits of `v` in a base, the most significant first. -/
def digitsOf (base v w : Nat) : List Nat := (List.range w).map (fun i => v / base ^ (w - 1 - i) % base)

@[simp] theorem digitsOf_length (base v w : Nat) : (digitsOf base v w).length = w := by simp [digitsOf]

theorem digitsOf_getElem {base v w i : Nat} (hi : i < (digitsOf base v w).length) :
    (digitsOf base v w)[i] = v / base ^ (w - 1 - i) % base := by
  simp [digitsOf]

theorem digitsOf_lt {base : Nat} (hbase : 0 < base) {v w d : Nat} (hd : d ∈ digitsOf base v w) : d < base := by
  obtain ⟨i, _, rfl⟩ := List.mem_map.1 hd
  exact Nat.mod_lt _ hbase

theorem digitsOf_succ (base v w : Nat) :
    digitsOf base v (w + 1) = digitsOf base (v / base) w ++ [v % base] := by
  simp only [digitsOf, List.range_succ, List.map_append, List.map_cons, List.map_nil, Nat.add_sub_cancel,
    Nat.sub_self, Nat.pow_zero, Nat.div_one, List.append_cancel_right_eq]
  refine List.map_congr_left fun i hi => ?_
  have hi : i < w := List.mem_range.1 hi
  rw [Nat.div_div_eq_div_mul, ← Nat.pow_succ', show w - i = w - 1 - i + 1 by omega]

theorem digitsValue_concat (base : Nat) (ds : List Nat) (d : Nat) :
    digitsValue base (ds ++ [d]) = digitsValue base ds * base + d := by
  simp [digitsValue]

theorem digitsValue_digitsOf_mod (base v w : Nat) : digitsValue base (digitsOf base v w) = v % base ^ w := by
  induction w generalizing v with
  | zero => simp [digitsOf, digitsValue, Nat.mod_one]
  | succ w ih => rw [digitsOf_succ, digitsValue_concat, ih, Nat.pow_succ', Nat.mod_mul, Nat.add_comm, Nat.mul_comm]

theorem digitsValue_digitsOf {base v w : Nat} (hv : v < base ^ w) : digitsValue base (digitsOf base v w) = v := by
  rw [digitsValue_digitsOf_mod, Nat.mod_eq_of_lt hv]

theorem digitsOf_digitsValue {base : Nat} {ds : List Nat} (hds : ∀ d ∈ ds, d < base) :
    digitsOf base (digitsValue base ds) ds.length = ds := by
  induction ds using List.reverseRecOn with
  | nil => rfl
  | append_singleton ds d ih =>
    have hd : d < base := hds d (by simp)
    have hquot : (digitsValue base ds * base + d) / base = digitsValue base ds := by
      rw [Nat.mul_comm, Nat.mul_add_div (by omega), Nat.div_eq_of_lt hd, Nat.add_zero]
    have hrem : (digitsValue base ds * base + d) % base = d := by
      rw [Nat.mul_comm, Nat.mul_add_mod, Nat.mod_eq_of_lt hd]
    rw [digitsValue_concat, List.length_append, List.length_singleton, digitsOf_succ, hquot, hrem,
      ih fun e he => hds e (by simp [he])]

/-! ## Digits as bytes -/

section
variable {base : Nat} {toByte : Nat → Byte} {ofByte : Byte → Nat}

/-- A number below the power of the width reads back from the bytes of its digits. -/
theorem digitsValue_map_digitsOf (hinv : ∀ d, d < base → ofByte (toByte d) = d) {v w : Nat} (hv : v < base ^ w)
    (hbase : 0 < base) : digitsValue base (((digitsOf base v w).map toByte).map ofByte) = v := by
  have hdigits : ((digitsOf base v w).map toByte).map ofByte = digitsOf base v w := by
    rw [List.map_map]
    exact (List.map_congr_left fun d hd => hinv d (digitsOf_lt hbase hd)).trans (List.map_id _)
  rw [hdigits, digitsValue_digitsOf hv]

/-- Bytes that each stand for a digit are the bytes of the digits of their value. -/
theorem map_digitsOf_digitsValue {bs : List Byte} (hlt : ∀ b ∈ bs, ofByte b < base)
    (hinv : ∀ b ∈ bs, toByte (ofByte b) = b) :
    (digitsOf base (digitsValue base (bs.map ofByte)) bs.length).map toByte = bs := by
  have hdigits : digitsOf base (digitsValue base (bs.map ofByte)) bs.length = bs.map ofByte := by
    simpa using digitsOf_digitsValue (List.forall_mem_map.2 hlt)
  rw [hdigits, List.map_map]
  exact (List.map_congr_left hinv).trans (List.map_id _)

end

/-! ## Decimal fields -/

/-- The character of a digit. -/
def digitChar (d : Nat) : Byte := BitVec.ofNat 8 (0x30 + d)

theorem digitChar_toNat {d : Nat} (hd : d < 10) : (digitChar d).toNat = 0x30 + d :=
  Nat.mod_eq_of_lt (by omega)

theorem dec_eq_map (v w : Nat) : dec v w = (digitsOf 10 v w).map digitChar := by
  simp [dec, digitsOf, digitChar]

theorem dec_toNat {v w i : Nat} (hi : i < (dec v w).length) :
    (dec v w)[i].toNat = 0x30 + v / 10 ^ (w - 1 - i) % 10 := by
  simp only [dec_eq_map, List.getElem_map, digitsOf_getElem]
  exact digitChar_toNat (Nat.mod_lt _ (by omega))

theorem isDigit_of_mem_dec {v w : Nat} {b : Byte} (hb : b ∈ dec v w) : isDigit b = true := by
  rw [dec_eq_map] at hb
  obtain ⟨d, hd, rfl⟩ := List.mem_map.1 hb
  have hlt : d < 10 := digitsOf_lt (by omega) hd
  rw [isDigit_iff, digitChar_toNat hlt]
  omega

theorem undec_dec {v w : Nat} (hv : v < 10 ^ w) : undec (dec v w) = v := by
  rw [undec, dec_eq_map]
  exact digitsValue_map_digitsOf (fun d hd => by rw [digitChar_toNat hd]; omega) hv (by omega)

theorem dec_undec {bs : List Byte} (hbs : ∀ b ∈ bs, isDigit b = true) : dec (undec bs) bs.length = bs := by
  have hrange (b : Byte) (hb : b ∈ bs) : 0x30 ≤ b.toNat ∧ b.toNat ≤ 0x39 := (isDigit_iff b).1 (hbs b hb)
  rw [undec, dec_eq_map]
  refine map_digitsOf_digitsValue (fun b hb => ?_) (fun b hb => BitVec.eq_of_toNat_eq ?_)
  · have := hrange b hb
    omega
  · have := hrange b hb
    rw [digitChar_toNat (by omega)]
    omega

/-! ## Big-endian fields -/

theorem be_eq_map (v w : Nat) : be v w = (digitsOf 256 v w).map (BitVec.ofNat 8) := by
  simp [be, digitsOf]

theorem be_toNat {v w i : Nat} (hi : i < (be v w).length) :
    (be v w)[i].toNat = v / 256 ^ (w - 1 - i) % 256 := by
  simp only [be_eq_map, List.getElem_map, digitsOf_getElem]
  exact Nat.mod_eq_of_lt (Nat.mod_lt _ (by omega))

theorem unbe_be {v w : Nat} (hv : v < 256 ^ w) : unbe (be v w) = v := by
  rw [unbe, be_eq_map]
  exact digitsValue_map_digitsOf (fun _ hd => Nat.mod_eq_of_lt hd) hv (by omega)

theorem be_unbe (bs : List Byte) : be (unbe bs) bs.length = bs := by
  rw [unbe, be_eq_map]
  exact map_digitsOf_digitsValue (fun b _ => b.isLt) (by simp)

end Sys2Proof.Machine
end

section
/-! PROOFS of the fixed-field family, what the operations share and the ASCII fields (41_fixed_fields.md R160 to
R164): the opening tests, the states the operations leave, and what `PUTA` and `GETA` do. -/

namespace Sys2Proof.Machine

/-! ## What the operations share -/

theorem raise_raisedBy (i : Instr) (c : ErrCode) (info : Nat) (s : State) :
    raise i c info s = .next (s.raisedBy i c info 0) := rfl

theorem testsItsField_of_inView {i : Instr} {a : Arena} {stop : Nat} {s : State}
    {body : Host.Outcome State Fault Refusal} (hexec : exec i s = inView i a stop s body) :
    TestsItsField i a stop s := by
  refine ⟨fun hk => ?_, fun hk hs => ?_⟩
  · rw [hexec, inView, if_pos hk]
    cases a <;> rfl
  · rw [hexec, inView, if_neg hk, if_neg (by omega), raise_raisedBy]

/-! ### The first byte that fails a test -/

theorem firstBad_readBytes_eq_none_iff {ok : Byte → Bool} {s : State} {sp : Space} {lo n : Nat} :
    firstBad ok (s.readBytes sp lo n) = none ↔ ∀ i, i < n → ok (s.readByte sp (lo + i)) = true := by
  simp [firstBad_eq_none_iff, State.readBytes]

theorem firstBad_readBytes_eq_some {ok : Byte → Bool} {s : State} {sp : Space} {lo n i : Nat} (hi : i < n)
    (hbad : ok (s.readByte sp (lo + i)) = false) (hok : ∀ j, j < i → ok (s.readByte sp (lo + j)) = true) :
    firstBad ok (s.readBytes sp lo n) = some i := by
  rw [firstBad, List.findIdx?_eq_some_iff_getElem]
  refine ⟨by simpa using hi, ?_, fun j hj => ?_⟩
  · simp [State.readBytes_getElem, hbad]
  · simp [State.readBytes_getElem, hok j hj]

/-! ### The states the operations leave -/

section
variable (s : State) {a : Arena}

/-- The end of a field that lies inside the command fits `NEXT`. -/
theorem State.setNext_toNat {stop : Nat} (hs : stop ≤ s.len a) (t : State) :
    (t.setNext stop).nextOff.toNat = stop := by
  have := s.len_lt a
  exact Nat.mod_eq_of_lt (by omega)

theorem State.writeBytes_readByte_at (sp : Space) (lo : Nat) {bs : List Byte} {i : Nat} (hi : i < bs.length) :
    (s.writeBytes sp lo bs).readByte sp (lo + i) = bs[i] := by
  rw [State.readByte_writeBytes, dif_pos ⟨rfl, by omega, by omega⟩]
  simp

theorem State.storeField_readByte_at (off : Nat) {bs : List Byte} {i : Nat} (hi : i < bs.length) :
    (s.storeField a off bs).readByte a.space (off + i) = bs[i] := by
  rw [State.storeField_readByte, State.writeBytes_readByte_at s _ _ hi]

/-- A stored field: the bytes outside it, `NEXT` and the registers. -/
theorem State.storeField_frame {off n : Nat} {bs : List Byte} (hn : bs.length = n) (hs : off + n ≤ s.len a) :
    SameBytesBut s (s.storeField a off bs) a.space off n ∧ (s.storeField a off bs).nextOff.toNat = off + n ∧
      SameRegsBut [.nxt] s (s.storeField a off bs) := by
  subst hn
  refine ⟨fun q i h => ?_, s.setNext_toNat hs _, s.storeField_sameRegs a ..⟩
  rw [State.storeField_readByte, State.readByte_writeBytes_other s h]

/-- A stored field reads as the bytes stored. -/
theorem State.readBytes_storeField {off n : Nat} {bs : List Byte} (hn : bs.length = n) :
    (s.storeField a off bs).readBytes a.space off n = bs := by
  subst hn
  rw [State.storeField, State.setNext_readBytes, State.readBytes_writeBytes_same]

/-- Storing the bytes that stand in a field changes no byte. -/
theorem State.storeField_readBytes_sameBytes (off n : Nat) :
    SameBytes s (s.storeField a off (s.readBytes a.space off n)) := by
  intro q i
  rw [State.storeField_readByte, State.readByte_writeBytes]
  split
  · rename_i h
    obtain ⟨rfl, hlo, _⟩ := h
    rw [State.readBytes_getElem, Nat.add_sub_cancel' hlo]
  · rfl

theorem State.deliver_readByte_at {bs : List Byte} (stop : Nat) {i : Nat} (hi : i < bs.length) :
    (s.deliver bs stop).readByte .fld i = bs[i] := by
  rw [State.deliver_readByte, ← s.writeBytes_readByte_at .fld 0 hi, Nat.zero_add]

/-- A delivered byte string: the bytes outside it. -/
theorem State.deliver_sameBytesBut {n : Nat} {bs : List Byte} (hn : bs.length = n) (stop : Nat) :
    SameBytesBut s (s.deliver bs stop) .fld 0 n := by
  subst hn
  intro q i h
  rw [State.deliver_readByte, State.readByte_writeBytes_other s h]

theorem State.deliverNumber_sameBytes (v stop : Nat) : SameBytes s (s.deliverNumber v stop) := by
  simp [SameBytes]

theorem State.deliverNumber_val {v stop : Nat} (hv : v < 2 ^ 64) : (s.deliverNumber v stop).val.toNat = v :=
  Nat.mod_eq_of_lt hv

theorem State.deliverNumber_val_eq (x : BitVec 64) (stop : Nat) : (s.deliverNumber x.toNat stop).val = x :=
  BitVec.eq_of_toNat_eq (s.deliverNumber_val x.isLt)

@[simp] theorem State.deliverNumber_len (v stop : Nat) : (s.deliverNumber v stop).len a = s.len a := by
  cases a <;> rfl

@[simp] theorem State.storeField_len (b : Arena) (off : Nat) (bs : List Byte) :
    (s.storeField a off bs).len b = s.len b := by
  simp [State.storeField]

@[simp] theorem State.storeField_err (off : Nat) (bs : List Byte) : (s.storeField a off bs).err = s.err := by
  simp [State.storeField]

end

/-! ## `PUTA` and `GETA` (R163, R164) -/

theorem padded_getElem_value {bs : List Byte} {w i : Nat} (hi : i < bs.length) (hw : i < (padded bs w).length) :
    (padded bs w)[i] = norm bs[i] := by
  simp [padded, hi]

theorem padded_getElem_space {bs : List Byte} {w i : Nat} (hi : bs.length ≤ i) (hw : i < (padded bs w).length) :
    (padded bs w)[i] = 0x20 := by
  simp [padded, List.getElem_append, Nat.not_lt.2 hi]

section
variable {s : State} {a : Arena} {off : BitVec 17} {w : BitVec 8} (hk : s.kind a ≠ none)
  (hs : off.toNat + w.toNat ≤ s.len a)
include hk hs

theorem exec_puta_of_fits (hw : s.fldlen.toNat ≤ w.toNat)
    (hok : ∀ i, i < s.fldlen.toNat → acceptable (s.readByte .fld i) = true) :
    exec (.puta a off w) s = .next (s.storeField a off.toNat (padded s.staged w.toNat)) := by
  have hgood : firstBad acceptable s.staged = none :=
    firstBad_readBytes_eq_none_iff.2 fun i hi => by rw [Nat.zero_add]; exact hok i hi
  exact (inView_of_live hk hs).trans (by rw [if_pos hw, hgood])

theorem exec_puta_of_overflow (hw : w.toNat < s.fldlen.toNat) :
    exec (.puta a off w) s = .next (s.raisedBy (.puta a off w) .overflow s.fldlen.toNat 0) :=
  (inView_of_live hk hs).trans (if_neg (by omega))

theorem exec_puta_of_charset (hw : s.fldlen.toNat ≤ w.toNat) {i : Nat} (hi : i < s.fldlen.toNat)
    (hbad : acceptable (s.readByte .fld i) = false)
    (hok : ∀ j, j < i → acceptable (s.readByte .fld j) = true) :
    exec (.puta a off w) s = .next (s.raisedBy (.puta a off w) .charset i 0) := by
  have hfirst : firstBad acceptable s.staged = some i :=
    firstBad_readBytes_eq_some hi (by rwa [Nat.zero_add]) fun j hj => by rw [Nat.zero_add]; exact hok j hj
  exact (inView_of_live hk hs).trans (by rw [if_pos hw, hfirst]; rfl)

theorem exec_geta_of_accepted
    (hok : ∀ i, i < w.toNat → acceptable (s.readByte a.space (off.toNat + i)) = true) :
    exec (.geta a off w) s = .next
      (s.deliver ((s.readBytes a.space off.toNat w.toNat).map norm) (off.toNat + w.toNat)) :=
  (inView_of_live hk hs).trans (by simp only [firstBad_readBytes_eq_none_iff.2 hok])

theorem exec_geta_of_charset {i : Nat} (hi : i < w.toNat)
    (hbad : acceptable (s.readByte a.space (off.toNat + i)) = false)
    (hok : ∀ j, j < i → acceptable (s.readByte a.space (off.toNat + j)) = true) :
    exec (.geta a off w) s = .next (s.raisedBy (.geta a off w) .charset (off.toNat + i) 0) :=
  (inView_of_live hk hs).trans (by simp only [firstBad_readBytes_eq_some hi hbad hok, raise_raisedBy])

end

/-- Settles O35: the branches of `PUTA` by the lemmas `exec_puta_…`, the field's bytes by those of `padded`. -/
theorem putaStoresThePaddedUpperCaseValueOrRaises : Obligations.PutaStoresThePaddedUpperCaseValueOrRaises := by
  intro a off w s
  refine ⟨by rw [opcField_encode]; rfl, testsItsField_of_inView rfl, fun hk hs => ⟨fun hw hok => ?_,
    exec_puta_of_overflow hk hs, fun i hw hi hbad hok => exec_puta_of_charset hk hs hw hi hbad hok⟩⟩
  have hlen : (padded s.staged w.toNat).length = w.toNat := padded_length (by rwa [State.staged_length])
  refine ⟨_, exec_puta_of_fits hk hs hw hok, fun i hi => ?_, fun i hi hiw => ?_, s.storeField_frame hlen hs⟩
  · rw [State.storeField_readByte_at s _ (by omega), padded_getElem_value (by rwa [State.staged_length])]
    simp only [State.staged, State.readBytes_getElem, Nat.zero_add]
  · rw [State.storeField_readByte_at s _ (by omega), padded_getElem_space (by rwa [State.staged_length])]

/-- Settles O36: the branches of `GETA` by the lemmas `exec_geta_…`, what it leaves by those of `State.deliver`. -/
theorem getaDeliversTheUpperCaseFieldOrRaises : Obligations.GetaDeliversTheUpperCaseFieldOrRaises := by
  intro a off w s
  refine ⟨by rw [opcField_encode]; rfl, testsItsField_of_inView rfl, fun hk hs => ⟨fun hok => ?_,
    fun i hi hbad hok => exec_geta_of_charset hk hs hi hbad hok⟩⟩
  have hlen : ((s.readBytes a.space off.toNat w.toNat).map norm).length = w.toNat := by simp
  refine ⟨_, exec_geta_of_accepted hk hs hok, fun i hi => ?_, s.deliver_sameBytesBut hlen _, ?_,
    s.setNext_toNat hs _, s.deliver_sameRegs ..⟩
  · rw [State.deliver_readByte_at s _ (by omega), List.getElem_map, State.readBytes_getElem]
  · rw [deliver_fldlen (by omega), hlen]

end Sys2Proof.Machine
end

section
/-! PROOFS of the fixed-field family, the number fields (41_fixed_fields.md R166 to R171): what each of the four
operations does behind the two opening tests, and that a number read back is the number written. -/

namespace Sys2Proof.Machine

/-! ## `PUTN` and `PUTU` (R166, R169) -/

/-- What `PUTN` and `PUTU` share: the opening tests, then `VAL` stored where it has at most `w` digits in the base
of the form. `exec_putn` and `exec_putu` tie it to the operations. -/
def putNumber (i : Instr) (base : Nat) (form : Nat → Nat → List Byte) (a : Arena) (off w : Nat) (s : State) :
    Host.Outcome State Fault Refusal :=
  inView i a (off + w) s
    (if s.val.toNat < base ^ w then .next (s.storeField a off (form s.val.toNat w)) else raise i .overflow w s)

theorem exec_putn (a : Arena) (off : BitVec 17) (w : BitVec 8) (s : State) :
    exec (.putn a off w) s = putNumber (.putn a off w) 10 dec a off.toNat w.toNat s := rfl

theorem exec_putu (a : Arena) (off : BitVec 17) (w : BitVec 8) (s : State) :
    exec (.putu a off w) s = putNumber (.putu a off w) 256 be a off.toNat w.toNat s := rfl

section
variable {i : Instr} {base : Nat} {form : Nat → Nat → List Byte} {a : Arena} {off w : Nat} {s t : State}

theorem putNumber_of_fits (hk : s.kind a ≠ none) (hs : off + w ≤ s.len a) (hv : s.val.toNat < base ^ w) :
    putNumber i base form a off w s = .next (s.storeField a off (form s.val.toNat w)) :=
  (inView_of_live hk hs).trans (if_pos hv)

theorem putNumber_of_overflow (hk : s.kind a ≠ none) (hs : off + w ≤ s.len a) (hv : base ^ w ≤ s.val.toNat) :
    putNumber i base form a off w s = .next (s.raisedBy i .overflow w 0) :=
  (inView_of_live hk hs).trans (if_neg (Nat.not_lt.2 hv))

/-- Without an error the tests have passed and the field is stored. -/
theorem putNumber_completes (h : putNumber i base form a off w s = .next t) (ht : t.err = none) :
    s.kind a ≠ none ∧ off + w ≤ s.len a ∧ s.val.toNat < base ^ w ∧
      t = s.storeField a off (form s.val.toNat w) := by
  rcases inView_spec h with ⟨_, rfl⟩ | ⟨_, _, rfl⟩ | ⟨hk, hs, hbody⟩
  · cases ht
  · cases ht
  · split at hbody
    · cases hbody
      exact ⟨hk, hs, ‹_›, rfl⟩
    · cases hbody
      cases ht

end

/-- Settles O37: `PUTN` as a `putNumber`, the stored bytes by `dec_toNat`. -/
theorem putnStoresTheDigitsOfValOrRaises : Obligations.PutnStoresTheDigitsOfValOrRaises := by
  intro a off w s
  rw [exec_putn]
  refine ⟨by rw [opcField_encode]; rfl, testsItsField_of_inView rfl, fun hk hs => ⟨fun hv => ?_,
    putNumber_of_overflow hk hs⟩⟩
  have hlen : (dec s.val.toNat w.toNat).length = w.toNat := dec_length ..
  refine ⟨_, putNumber_of_fits hk hs hv, fun i hi => ?_, s.storeField_frame hlen hs⟩
  rw [State.storeField_readByte_at s _ (by omega), dec_toNat]

/-- Settles O39: `PUTU` as a `putNumber`, the stored bytes by `be_toNat`. -/
theorem putuStoresValBigEndianOrRaises : Obligations.PutuStoresValBigEndianOrRaises := by
  intro a off w s
  rw [exec_putu]
  refine ⟨by rw [opcField_encode]; rfl, testsItsField_of_inView rfl, fun hk hs => ⟨fun hv => ?_,
    putNumber_of_overflow hk hs⟩⟩
  have hlen : (be s.val.toNat w.toNat).length = w.toNat := be_length ..
  refine ⟨_, putNumber_of_fits hk hs hv, fun i hi => ?_, s.storeField_frame hlen hs⟩
  rw [State.storeField_readByte_at s _ (by omega), be_toNat]

/-! ## What a field holds -/

section
variable {s : State} {sp : Space} {lo w : Nat}

/-- A field of digits is the decimal form of a number. -/
theorem exists_readBytes_eq_dec (hdigits : ∀ i, i < w → isDigit (s.readByte sp (lo + i)) = true) :
    ∃ v, v < 10 ^ w ∧ s.readBytes sp lo w = dec v w := by
  have hgood := firstBad_readBytes_eq_none_iff.2 hdigits
  have hlt := undec_lt hgood
  have hdec := dec_undec (firstBad_eq_none_iff.1 hgood)
  rw [State.readBytes_length] at hlt hdec
  exact ⟨_, hlt, hdec.symm⟩

/-- Every field is the big-endian form of a number. -/
theorem exists_readBytes_eq_be : ∃ v, v < 256 ^ w ∧ s.readBytes sp lo w = be v w := by
  have hlt := unbe_lt (s.readBytes sp lo w)
  have hbe := be_unbe (s.readBytes sp lo w)
  rw [State.readBytes_length] at hlt hbe
  exact ⟨_, hlt, hbe.symm⟩

theorem readByte_of_readBytes_eq {bs : List Byte} (h : s.readBytes sp lo w = bs) {i : Nat} (hi : i < bs.length) :
    s.readByte sp (lo + i) = bs[i] := by
  subst h
  rw [State.readBytes_getElem]

end

/-- A number of at most 19 digits fits `VAL`. -/
theorem lt_two_pow_64_of_digits {v w : Nat} (hw : w ≤ 19) (hv : v < 10 ^ w) : v < 2 ^ 64 :=
  calc v < 10 ^ w := hv
    _ ≤ 10 ^ 19 := Nat.pow_le_pow_right (by omega) hw
    _ < 2 ^ 64 := by norm_num

/-- A number of at most 4 bytes fits `VAL`. -/
theorem lt_two_pow_64_of_bytes {v w : Nat} (hw : w ≤ 4) (hv : v < 256 ^ w) : v < 2 ^ 64 :=
  calc v < 256 ^ w := hv
    _ ≤ 256 ^ 4 := Nat.pow_le_pow_right (by omega) hw
    _ < 2 ^ 64 := by norm_num

/-! ## `GETN` and `GETU` (R167, R170) -/

section
variable {s t : State} {a : Arena} {off : BitVec 17} {w : BitVec 8}

theorem exec_getn_of_dec (hk : s.kind a ≠ none) (hs : off.toNat + w.toNat ≤ s.len a) {v : Nat}
    (hv : v < 10 ^ w.toNat) (hfield : s.readBytes a.space off.toNat w.toNat = dec v w.toNat) :
    exec (.getn a off w) s = .next (s.deliverNumber v (off.toNat + w.toNat)) := by
  have hgood : firstBad isDigit (dec v w.toNat) = none :=
    firstBad_eq_none_iff.2 fun _ => isDigit_of_mem_dec
  exact (inView_of_live hk hs).trans (by simp only [hfield, hgood, undec_dec hv])

theorem exec_getn_of_field (hk : s.kind a ≠ none) (hs : off.toNat + w.toNat ≤ s.len a) {i : Nat}
    (hi : i < w.toNat) (hbad : isDigit (s.readByte a.space (off.toNat + i)) = false)
    (hok : ∀ j, j < i → isDigit (s.readByte a.space (off.toNat + j)) = true) :
    exec (.getn a off w) s = .next (s.raisedBy (.getn a off w) .field (off.toNat + i) 0) :=
  (inView_of_live hk hs).trans (by simp only [firstBad_readBytes_eq_some hi hbad hok, raise_raisedBy])

/-- Without an error the field is the decimal form of the number delivered. -/
theorem exec_getn_completes (h : exec (.getn a off w) s = .next t) (ht : t.err = none) :
    s.kind a ≠ none ∧ off.toNat + w.toNat ≤ s.len a ∧ ∃ v, v < 10 ^ w.toNat ∧
      s.readBytes a.space off.toNat w.toNat = dec v w.toNat ∧ t = s.deliverNumber v (off.toNat + w.toNat) := by
  rcases inView_spec h with ⟨_, rfl⟩ | ⟨_, _, rfl⟩ | ⟨hk, hs, hbody⟩
  · cases ht
  · cases ht
  · dsimp only at hbody
    split at hbody
    · cases hbody
      cases ht
    · rename_i hgood
      obtain ⟨v, hv, hfield⟩ := exists_readBytes_eq_dec (firstBad_readBytes_eq_none_iff.1 hgood)
      rw [hfield, undec_dec hv] at hbody
      cases hbody
      exact ⟨hk, hs, v, hv, hfield, rfl⟩

theorem exec_getu_of_be (hk : s.kind a ≠ none) (hs : off.toNat + w.toNat ≤ s.len a) {v : Nat}
    (hv : v < 256 ^ w.toNat) (hfield : s.readBytes a.space off.toNat w.toNat = be v w.toNat) :
    exec (.getu a off w) s = .next (s.deliverNumber v (off.toNat + w.toNat)) :=
  (inView_of_live hk hs).trans (by rw [hfield, unbe_be hv])

end

/-- Settles O38: the number whose decimal form the field is (`exists_readBytes_eq_dec`) is delivered. -/
theorem getnDeliversTheDecimalValueOrRaises : Obligations.GetnDeliversTheDecimalValueOrRaises := by
  intro a off w s
  refine ⟨by rw [opcField_encode]; rfl, testsItsField_of_inView rfl, fun hk hs hw => ⟨fun hdigits => ?_,
    fun i hi hbad hok => exec_getn_of_field hk hs hi hbad hok⟩⟩
  obtain ⟨v, hv, hfield⟩ := exists_readBytes_eq_dec hdigits
  have hval := s.deliverNumber_val (stop := off.toNat + w.toNat) (lt_two_pow_64_of_digits hw hv)
  refine ⟨_, exec_getn_of_dec hk hs hv hfield, hval.symm ▸ hv, fun i hi => ?_, s.setNext_toNat hs _,
    s.deliverNumber_sameRegs .., s.deliverNumber_sameBytes _ _⟩
  rw [hval, readByte_of_readBytes_eq hfield (by rwa [dec_length]), dec_toNat]

/-- Settles O40: the number whose big-endian form the field is (`exists_readBytes_eq_be`) is delivered. -/
theorem getuDeliversTheBigEndianValue : Obligations.GetuDeliversTheBigEndianValue := by
  intro a off w s
  refine ⟨by rw [opcField_encode]; rfl, testsItsField_of_inView rfl, fun hk hs hw => ?_⟩
  obtain ⟨v, hv, hfield⟩ := exists_readBytes_eq_be (s := s) (sp := a.space) (lo := off.toNat) (w := w.toNat)
  have hval := s.deliverNumber_val (stop := off.toNat + w.toNat) (lt_two_pow_64_of_bytes hw hv)
  refine ⟨_, exec_getu_of_be hk hs hv hfield, hval.symm ▸ hv, fun i hi => ?_, s.setNext_toNat hs _,
    s.deliverNumber_sameRegs .., s.deliverNumber_sameBytes _ _⟩
  rw [hval, readByte_of_readBytes_eq hfield (by rwa [be_length]), be_toNat]

/-! ## Round trips (R171) -/

section
variable (s : State) (x : BitVec 64)

theorem State.withVal_kind (a : Arena) : ({ s with val := x } : State).kind a = s.kind a := by cases a <;> rfl
theorem State.withVal_len (a : Arena) : ({ s with val := x } : State).len a = s.len a := by cases a <;> rfl
theorem State.withVal_readBytes (sp : Space) (lo n : Nat) :
    ({ s with val := x } : State).readBytes sp lo n = s.readBytes sp lo n := by cases sp <;> rfl

end

/-- The field stored stands under a live view until the next operation, whatever the host writes to `VAL`. -/
theorem putNumber_leaves_field {i : Instr} {base : Nat} {form : Nat → Nat → List Byte} {a : Arena} {off w : Nat}
    {s t : State} (h : putNumber i base form a off w s = .next t) (ht : t.err = none)
    (hform : (form s.val.toNat w).length = w) (x : BitVec 64) :
    ({ t with val := x } : State).kind a ≠ none ∧ off + w ≤ ({ t with val := x } : State).len a ∧
      ({ t with val := x } : State).readBytes a.space off w = form s.val.toNat w ∧ s.val.toNat < base ^ w := by
  obtain ⟨hk, hs, hv, rfl⟩ := putNumber_completes h ht
  rw [State.withVal_kind, State.withVal_len, State.withVal_readBytes, State.storeField_kind, State.storeField_len]
  exact ⟨hk, hs, s.readBytes_storeField hform, hv⟩

/-- Settles O41: the field stands as the form of the number (`putNumber_leaves_field`), which reads as the number
(`exec_getn_of_dec`, `exec_getu_of_be`). -/
theorem numbersReadBackAsWritten : Obligations.NumbersReadBackAsWritten := by
  intro a off w x s t _ ht
  refine ⟨fun _ h => ?_, fun _ h => ?_⟩
  · rw [exec_putn] at h
    obtain ⟨hk, hs, hfield, hv⟩ := putNumber_leaves_field h ht (dec_length ..) x
    exact ⟨_, exec_getn_of_dec hk hs hv hfield, ht, State.deliverNumber_val_eq ..⟩
  · rw [exec_putu] at h
    obtain ⟨hk, hs, hfield, hv⟩ := putNumber_leaves_field h ht (be_length ..) x
    exact ⟨_, exec_getu_of_be hk hs hv hfield, ht, State.deliverNumber_val_eq ..⟩

theorem widthIn_le {hi : Nat} {w : BitVec 8} (h : widthIn hi w = true) : w.toNat ≤ hi := by
  simp only [widthIn, Bool.and_eq_true, decide_eq_true_eq] at h
  exact h.2

/-- Settles O42: `PUTN` stores the decimal form of the number `GETN` delivered, which is what stands in the field
(`exec_getn_completes`). -/
theorem numericFieldWrittenBackKeepsItsBytes : Obligations.NumericFieldWrittenBackKeepsItsBytes := by
  intro a off w s t hw _ h ht
  obtain ⟨hk, hs, v, hv, hfield, rfl⟩ := exec_getn_completes h ht
  have hval := s.deliverNumber_val (stop := off.toNat + w.toNat) (lt_two_pow_64_of_digits (widthIn_le hw) hv)
  have hsame := s.deliverNumber_sameBytes v (off.toNat + w.toNat)
  rw [exec_putn]
  refine ⟨_, putNumber_of_fits (by rwa [State.deliverNumber_kind]) (by rwa [State.deliverNumber_len])
    (hval.symm ▸ hv), by rwa [State.storeField_err], hsame.trans ?_⟩
  rw [hval, ← hfield, ← State.readBytes_congr fun j _ => hsame a.space (off.toNat + j)]
  exact State.storeField_readBytes_sameBytes _ _ _

end Sys2Proof.Machine
end

section
/-! PROOFS of the variable-field family, what the operations share (42_variable_fields.md R190 to R195): the length
prefixes as forms of a number, the tests of a field, and the states the operations leave. -/

namespace Sys2Proof.Machine

/-! ## Length prefixes (R190, 30_encoding.md R124, R125) -/

theorem readBytes_eq_iff {s : State} {sp : Space} {lo : Nat} {bs : List Byte} :
    s.readBytes sp lo bs.length = bs ↔
      ∀ i, (hi : i < bs.length) → (s.readByte sp (lo + i)).toNat = bs[i].toNat := by
  refine ⟨fun h i hi => congrArg _ (readByte_of_readBytes_eq h hi), fun h => List.ext_getElem (by simp) ?_⟩
  intro i _ hi
  rw [State.readBytes_getElem]
  exact BitVec.eq_of_toNat_eq (h i hi)

section
variable {s : State} {a : Arena} {off n m : Nat}

/-- The digits of a text prefix are those of `dec(n, 3)`. -/
theorem textPrefix_iff :
    TextPrefix s a off n ↔ n < 10 ^ 3 ∧ s.readBytes a.space off 3 = dec n 3 := by
  have hread := readBytes_eq_iff (s := s) (sp := a.space) (lo := off) (bs := dec n 3)
  simp only [dec_length, dec_toNat] at hread
  rw [hread]
  constructor
  · rintro ⟨x, y, z, hx, hy, hz, hn, h0, h1, h2⟩
    refine ⟨by omega, fun i hi => ?_⟩
    interval_cases i <;> simp only [Nat.add_zero, h0, h1, h2] <;> omega
  · rintro ⟨hn, h⟩
    exact ⟨n / 100 % 10, n / 10 % 10, n % 10, by omega, by omega, by omega, by omega, h 0 (by omega),
      h 1 (by omega), by simpa using h 2 (by omega)⟩

/-- The bytes of a binary prefix are those of `be(n, 2)`. -/
theorem binaryPrefix_iff :
    BinaryPrefix s a off n ↔ n < 256 ^ 2 ∧ s.readBytes a.space off 2 = be n 2 := by
  have hread := readBytes_eq_iff (s := s) (sp := a.space) (lo := off) (bs := be n 2)
  simp only [be_length, be_toNat] at hread
  rw [hread]
  have hx := (s.readByte a.space off).isLt
  have hy := (s.readByte a.space (off + 1)).isLt
  constructor
  · intro (hn : n = _)
    refine ⟨by omega, fun i hi => ?_⟩
    obtain rfl | rfl : i = 0 ∨ i = 1 := by omega
    · rw [Nat.add_zero]
      omega
    · omega
  · rintro ⟨hn, h⟩
    have h0 := h 0 (by omega)
    have h1 := h 1 (by omega)
    rw [Nat.add_zero] at h0
    show n = _
    omega

theorem TextPrefix.undec_eq (h : TextPrefix s a off n) :
    undec (s.readBytes a.space off 3) = n := by
  obtain ⟨hn, hread⟩ := textPrefix_iff.1 h
  rw [hread, undec_dec hn]

theorem BinaryPrefix.unbe_eq (h : BinaryPrefix s a off n) :
    unbe (s.readBytes a.space off 2) = n := by
  obtain ⟨hn, hread⟩ := binaryPrefix_iff.1 h
  rw [hread, unbe_be hn]

theorem TextPrefix.unique (hn : TextPrefix s a off n) (hm : TextPrefix s a off m) : n = m :=
  hn.undec_eq.symm.trans hm.undec_eq

theorem BinaryPrefix.unique (hn : BinaryPrefix s a off n) (hm : BinaryPrefix s a off m) : n = m :=
  hn.trans hm.symm

theorem TextPrefix.le (h : TextPrefix s a off n) : n ≤ 65535 :=
  (Nat.le_of_lt (textPrefix_iff.1 h).1).trans (by norm_num)

theorem BinaryPrefix.le (h : BinaryPrefix s a off n) : n ≤ 65535 :=
  Nat.le_of_lt_succ (binaryPrefix_iff.1 h).1

theorem TextPrefix.firstBad_eq_none (h : TextPrefix s a off n) :
    firstBad isDigit (s.readBytes a.space off 3) = none := by
  rw [(textPrefix_iff.1 h).2]
  exact firstBad_eq_none_iff.2 fun _ => isDigit_of_mem_dec

/-- Three digits are the text prefix of the number they read as. -/
theorem textPrefix_undec (h : firstBad isDigit (s.readBytes a.space off 3) = none) :
    TextPrefix s a off (undec (s.readBytes a.space off 3)) := by
  obtain ⟨n, hn, hread⟩ := exists_readBytes_eq_dec (firstBad_readBytes_eq_none_iff.1 h)
  rw [hread, undec_dec hn]
  exact textPrefix_iff.2 ⟨hn, hread⟩

/-- Any two bytes are the binary prefix of the number they read as. -/
theorem binaryPrefix_unbe (s : State) (a : Arena) (off : Nat) :
    BinaryPrefix s a off (unbe (s.readBytes a.space off 2)) := by
  obtain ⟨n, hn, hread⟩ := exists_readBytes_eq_be (s := s) (sp := a.space) (lo := off) (w := 2)
  rw [hread, unbe_be hn]
  exact binaryPrefix_iff.2 ⟨hn, hread⟩

end

/-! ## The tests of a field (R192 to R195) -/

section
variable {i : Instr} {a : Arena} {off n : Nat} {s t : State} {body : Nat → Host.Outcome State Fault Refusal}

theorem textField_of_prefix (hk : s.kind a ≠ none) (hpre : TextPrefix s a off n) (hs : off + 3 + n ≤ s.len a) :
    textField i a off s body = body n :=
  (inView_of_live hk (by omega)).trans (by simp only [hpre.firstBad_eq_none, hpre.undec_eq, if_pos hs])

theorem textField_of_overrun (hk : s.kind a ≠ none) (hfit : off + 3 ≤ s.len a) (hpre : TextPrefix s a off n)
    (hs : s.len a < off + 3 + n) : textField i a off s body = .next (s.raisedBy i .bounds (off + 3 + n) 0) :=
  (inView_of_live hk hfit).trans
    (by simp only [hpre.firstBad_eq_none, hpre.undec_eq, if_neg (Nat.not_le.2 hs), raise_raisedBy])

theorem textField_of_field (hk : s.kind a ≠ none) (hfit : off + 3 ≤ s.len a) {j : Nat} (hj : j < 3)
    (hbad : isDigit (s.readByte a.space (off + j)) = false)
    (hok : ∀ m, m < j → isDigit (s.readByte a.space (off + m)) = true) :
    textField i a off s body = .next (s.raisedBy i .field (off + j) 0) :=
  (inView_of_live hk hfit).trans (by simp only [firstBad_readBytes_eq_some hj hbad hok, raise_raisedBy])

theorem binaryField_of_prefix (hk : s.kind a ≠ none) (hpre : BinaryPrefix s a off n) (hs : off + 2 + n ≤ s.len a) :
    binaryField i a off s body = body n :=
  (inView_of_live hk (by omega)).trans (by simp only [hpre.unbe_eq, if_pos hs])

theorem binaryField_of_overrun (hk : s.kind a ≠ none) (hfit : off + 2 ≤ s.len a) (hpre : BinaryPrefix s a off n)
    (hs : s.len a < off + 2 + n) : binaryField i a off s body = .next (s.raisedBy i .bounds (off + 2 + n) 0) :=
  (inView_of_live hk hfit).trans
    (by simp only [hpre.unbe_eq, if_neg (Nat.not_le.2 hs), raise_raisedBy])

/-- Without an error the tests of a text field have passed. -/
theorem textField_completes (h : textField i a off s body = .next t) (ht : t.err = none) :
    s.kind a ≠ none ∧ ∃ n, TextPrefix s a off n ∧ off + 3 + n ≤ s.len a ∧ body n = .next t := by
  rcases textField_spec h with ⟨_, _, rfl⟩ | ⟨hk, hdigits, hs, hbody⟩
  · cases ht
  · exact ⟨hk, _, textPrefix_undec hdigits, hs, hbody⟩

/-- Without an error the tests of a binary field have passed. -/
theorem binaryField_completes (h : binaryField i a off s body = .next t) (ht : t.err = none) :
    s.kind a ≠ none ∧ ∃ n, BinaryPrefix s a off n ∧ off + 2 + n ≤ s.len a ∧ body n = .next t := by
  rcases binaryField_spec h with ⟨_, _, rfl⟩ | ⟨hk, hs, hbody⟩
  · cases ht
  · exact ⟨hk, _, binaryPrefix_unbe s a off, hs, hbody⟩

end

/-! ## Bodies delivered (R193, R195) -/

/-- What the delivery of a body leaves: its bytes in `FLD`, the others, `FLDLEN`, `NEXT` and the registers. -/
theorem State.deliver_body {s t : State} {a : Arena} {lo n : Nat}
    (ht : t = s.deliver (s.readBytes a.space lo n) (lo + n)) (hn : n ≤ 65535) (hs : lo + n ≤ s.len a) :
    (∀ j, j < n → t.readByte .fld j = s.readByte a.space (lo + j)) ∧ SameBytesBut s t .fld 0 n ∧
      t.fldlen.toNat = n ∧ t.nextOff.toNat = lo + n ∧ SameRegsBut [.fldlen, .nxt] s t := by
  subst ht
  have hlen : (s.readBytes a.space lo n).length = n := State.readBytes_length ..
  refine ⟨fun j hj => ?_, s.deliver_sameBytesBut hlen _, ?_, s.setNext_toNat hs _, s.deliver_sameRegs ..⟩
  · rw [s.deliver_readByte_at _ (by omega), State.readBytes_getElem]
  · rw [deliver_fldlen (by omega), hlen]

/-! ## Bodies installed (R191, R192, R194) -/

section
variable {i : Instr} {s t : State} {a : Arena} {off old n : Nat} {pre body : List Byte}

theorem installVariable_of_room (hn : body.length = n) (hroom : s.len a - old + n ≤ s.debsize.toNat) :
    installVariable i a off old pre body s = .next (s.installed a off old pre body) := by
  subst hn
  exact if_pos hroom

theorem installVariable_of_full (hn : body.length = n) (hfull : s.debsize.toNat < s.len a - old + n) :
    installVariable i a off old pre body s = .next (s.raisedBy i .bounds (s.len a - old + n) 0) := by
  subst hn
  exact if_neg (Nat.not_le.2 hfull)

/-- Without an error the new length has passed its test. -/
theorem installVariable_room (h : installVariable i a off old pre body s = .next t) (ht : t.err = none)
    (hn : body.length = n) :
    s.len a - old + n ≤ s.debsize.toNat ∧ t = s.installed a off old pre body := by
  subst hn
  rcases installVariable_completes h with ⟨_, rfl⟩ | hdone
  · cases ht
  · exact hdone

/-- The body is the last store of an installation. -/
theorem installed_readByte_body {j : Nat} (hj : j < body.length) :
    (s.installed a off old pre body).readByte a.space (off + pre.length + j) = body[j] := by
  rw [State.installed, State.setNext_readByte, State.writeBytes_readByte_at _ _ _ hj]

/-- The prefix is stored before the body and lies below it. -/
theorem installed_readBytes_prefix :
    (s.installed a off old pre body).readBytes a.space off pre.length = pre := by
  rw [State.installed, State.setNext_readBytes, State.readBytes_writeBytes_other _ (.inr (.inl le_rfl)),
    State.readBytes_writeBytes_same]

/-- Behind the body stands the tail, displaced by the resize (R191). -/
theorem installed_readByte_tail (hs : off + pre.length + old ≤ s.len a) {j : Nat}
    (hj : off + pre.length + old + j < s.len a) :
    (s.installed a off old pre body).readByte a.space (off + pre.length + body.length + j) =
      s.readByte a.space (off + pre.length + old + j) := by
  rw [State.installed, State.setNext_readByte, State.readByte_writeBytes_other _ (by omega),
    State.readByte_writeBytes_other _ (by omega), State.resize_readByte s a _ _ hs,
    if_pos ⟨rfl, by omega, by omega⟩]
  congr 1
  omega

/-- What an installation of the staged bytes leaves: the length, the prefix, the body, the tail, the other bytes,
`NEXT` and the registers. -/
theorem State.installed_staged {p : Nat} (ht : t = s.installed a off old pre s.staged) (hp : pre.length = p)
    (hs : off + p + old ≤ s.len a) (hroom : s.len a - old + s.fldlen.toNat ≤ s.debsize.toNat) :
    t.len a = s.len a - old + s.fldlen.toNat ∧ t.readBytes a.space off p = pre ∧
      (∀ j, j < s.fldlen.toNat → t.readByte a.space (off + p + j) = s.readByte .fld j) ∧
      (∀ j, off + p + old + j < s.len a →
        t.readByte a.space (off + p + s.fldlen.toNat + j) = s.readByte a.space (off + p + old + j)) ∧
      SameBytesBut s t a.space off (s.len a - old + s.fldlen.toNat - off) ∧
      t.nextOff.toNat = off + p + s.fldlen.toNat ∧ SameRegsBut [lenReg a, .nxt] s t := by
  subst ht hp
  have hlen : s.staged.length = s.fldlen.toNat := s.staged_length
  rw [← hlen] at hroom ⊢
  have hnext : off + pre.length + s.staged.length ≤ (s.installed a off old pre s.staged).len a := by
    rw [installed_len hs hroom]
    omega
  refine ⟨installed_len hs hroom, installed_readBytes_prefix, fun j hj => ?_, fun j => installed_readByte_tail hs,
    installed_sameBytesBut hs, State.setNext_toNat _ hnext _, s.installed_sameRegs a ..⟩
  rw [installed_readByte_body hj]
  simp only [State.staged, State.readBytes_getElem, Nat.zero_add]

end

end Sys2Proof.Machine
end

section
/-! PROOFS of the variable-field family, the four operations (42_variable_fields.md R192 to R198): what each does
behind the tests of its field, that a body reads back as installed, and that the last byte stays last. -/

namespace Sys2Proof.Machine

/-! ## `GETT` and `GETB` (R193, R195) -/

theorem exec_gett (a : Arena) (off : BitVec 17) (s : State) :
    exec (.gett a off) s = textField (.gett a off) a off.toNat s fun n =>
      .next (s.deliver (s.readBytes a.space (off.toNat + 3) n) (off.toNat + 3 + n)) := rfl

theorem exec_getb (a : Arena) (off : BitVec 17) (s : State) :
    exec (.getb a off) s = binaryField (.getb a off) a off.toNat s fun n =>
      .next (s.deliver (s.readBytes a.space (off.toNat + 2) n) (off.toNat + 2 + n)) := rfl

/-- Settles O44: the tests of the text field by the lemmas `textField_of_…`, the delivery by `State.deliver_body`. -/
theorem gettDeliversTheTextOrRaises : Obligations.GettDeliversTheTextOrRaises := by
  intro a off s
  rw [exec_gett]
  refine ⟨by rw [opcField_encode]; rfl, testsItsField_of_inView rfl, fun hk hfit => ⟨fun n hpre hs => ?_,
    fun j hj hbad hok => textField_of_field hk hfit hj hbad hok, fun _ => textField_of_overrun hk hfit⟩⟩
  exact ⟨_, textField_of_prefix hk hpre hs, State.deliver_body rfl hpre.le hs⟩

/-- Settles O46: the tests of the binary field by the lemmas `binaryField_of_…`, the delivery by
`State.deliver_body`. -/
theorem getbDeliversTheBytesOrRaises : Obligations.GetbDeliversTheBytesOrRaises := by
  intro a off s
  rw [exec_getb]
  refine ⟨by rw [opcField_encode]; rfl, testsItsField_of_inView rfl, fun hk hfit n hpre => ⟨fun hs => ?_,
    binaryField_of_overrun hk hfit hpre⟩⟩
  exact ⟨_, binaryField_of_prefix hk hpre hs, State.deliver_body rfl hpre.le hs⟩

/-! ## `PUTT` and `PUTB` (R192, R194) -/

theorem exec_putt (a : Arena) (off : BitVec 17) (s : State) :
    exec (.putt a off) s = textField (.putt a off) a off.toNat s fun old =>
      if s.fldlen.toNat ≤ 999 then
        installVariable (.putt a off) a off.toNat old (dec s.fldlen.toNat 3) s.staged s
      else raise (.putt a off) .overflow s.fldlen.toNat s := rfl

theorem exec_putb (a : Arena) (off : BitVec 17) (s : State) :
    exec (.putb a off) s = binaryField (.putb a off) a off.toNat s fun old =>
      installVariable (.putb a off) a off.toNat old (be s.fldlen.toNat 2) s.staged s := rfl

section
variable {s t : State} {a : Arena} {off : BitVec 17}

/-- Without an error `PUTT` has found a text field and installed the staged bytes in it. -/
theorem exec_putt_completes (h : exec (.putt a off) s = .next t) (ht : t.err = none) :
    s.kind a ≠ none ∧ s.fldlen.toNat ≤ 999 ∧ ∃ old, TextPrefix s a off.toNat old ∧
      off.toNat + 3 + old ≤ s.len a ∧ s.len a - old + s.fldlen.toNat ≤ s.debsize.toNat ∧
      t = s.installed a off.toNat old (dec s.fldlen.toNat 3) s.staged := by
  rw [exec_putt] at h
  obtain ⟨hk, old, hpre, hs, hbody⟩ := textField_completes h ht
  split at hbody
  · rename_i hnew
    exact ⟨hk, hnew, old, hpre, hs, installVariable_room hbody ht s.staged_length⟩
  · cases hbody
    cases ht

/-- Without an error `PUTB` has found a binary field and installed the staged bytes in it. -/
theorem exec_putb_completes (h : exec (.putb a off) s = .next t) (ht : t.err = none) :
    s.kind a ≠ none ∧ ∃ old, BinaryPrefix s a off.toNat old ∧
      off.toNat + 2 + old ≤ s.len a ∧ s.len a - old + s.fldlen.toNat ≤ s.debsize.toNat ∧
      t = s.installed a off.toNat old (be s.fldlen.toNat 2) s.staged := by
  rw [exec_putb] at h
  obtain ⟨hk, old, hpre, hs, hbody⟩ := binaryField_completes h ht
  exact ⟨hk, old, hpre, hs, installVariable_room hbody ht s.staged_length⟩

end

/-- Settles O43: the branches of `PUTT` by its lemmas, what it leaves by `State.installed_staged`. -/
theorem puttInstallsTheTextOrRaises : Obligations.PuttInstallsTheTextOrRaises := by
  intro a off s
  rw [exec_putt]
  refine ⟨by rw [opcField_encode]; rfl, testsItsField_of_inView rfl, fun hk hfit =>
    ⟨fun old hpre hs hnew hroom => ?_, fun j hj hbad hok => textField_of_field hk hfit hj hbad hok,
    fun _ => textField_of_overrun hk hfit, fun old hpre hs hnew => ?_, fun old hpre hs hnew hfull => ?_⟩⟩
  · obtain ⟨hlen, hread, hrest⟩ := State.installed_staged rfl (dec_length ..) hs hroom
    refine ⟨_, ?_, hlen, textPrefix_iff.2 ⟨Nat.lt_succ_of_le hnew, hread⟩, hrest⟩
    rw [textField_of_prefix hk hpre hs, if_pos hnew, installVariable_of_room s.staged_length hroom]
  · rw [textField_of_prefix hk hpre hs, if_neg (Nat.not_le.2 hnew), raise_raisedBy]
  · rw [textField_of_prefix hk hpre hs, if_pos hnew, installVariable_of_full s.staged_length hfull]

/-- Settles O45: the branches of `PUTB` by its lemmas, what it leaves by `State.installed_staged`. -/
theorem putbInstallsTheBytesOrRaises : Obligations.PutbInstallsTheBytesOrRaises := by
  intro a off s
  rw [exec_putb]
  refine ⟨by rw [opcField_encode]; rfl, testsItsField_of_inView rfl, fun hk hfit old hpre =>
    ⟨fun hs hroom => ?_, binaryField_of_overrun hk hfit hpre, fun hs hfull => ?_⟩⟩
  · obtain ⟨hlen, hread, hrest⟩ := State.installed_staged rfl (be_length ..) hs hroom
    exact ⟨_, (binaryField_of_prefix hk hpre hs).trans (installVariable_of_room s.staged_length hroom), hlen,
      binaryPrefix_iff.2 ⟨s.fldlen.isLt, hread⟩, hrest⟩
  · exact (binaryField_of_prefix hk hpre hs).trans (installVariable_of_full s.staged_length hfull)

/-! ## Round trips (R198) -/

section
variable (s : State) (m : Memory) (x : BitVec 16) (a : Arena)

theorem State.withStaging_kind : ({ s with fld := m, fldlen := x } : State).kind a = s.kind a := by cases a <;> rfl
theorem State.withStaging_len : ({ s with fld := m, fldlen := x } : State).len a = s.len a := by cases a <;> rfl
theorem State.withStaging_readByte (i : Nat) :
    ({ s with fld := m, fldlen := x } : State).readByte a.space i = s.readByte a.space i := by cases a <;> rfl
theorem State.withStaging_readBytes (lo n : Nat) :
    ({ s with fld := m, fldlen := x } : State).readBytes a.space lo n = s.readBytes a.space lo n := by
  cases a <;> rfl

end

/-- The field installed stands under a live view until the next operation, whatever the host writes to `FLD` and
`FLDLEN`. -/
theorem installed_leaves_field {s t u : State} {a : Arena} {off old p : Nat} {pre : List Byte} {m : Memory}
    {x : BitVec 16} (ht : t = s.installed a off old pre s.staged) (hu : u = { t with fld := m, fldlen := x })
    (hk : s.kind a ≠ none) (hp : pre.length = p) (hs : off + p + old ≤ s.len a)
    (hroom : s.len a - old + s.fldlen.toNat ≤ s.debsize.toNat) :
    u.kind a ≠ none ∧ off + p + s.fldlen.toNat ≤ u.len a ∧ u.readBytes a.space off p = pre ∧
      ∀ j, j < s.fldlen.toNat → u.readByte a.space (off + p + j) = s.readByte .fld j := by
  obtain ⟨hlen, hpre, hbody, -⟩ := State.installed_staged ht hp hs hroom
  subst hu
  simp only [State.withStaging_kind, State.withStaging_len, State.withStaging_readByte, State.withStaging_readBytes]
  refine ⟨?_, by omega, hpre, hbody⟩
  rwa [ht, State.installed_kind]

/-- A body delivered where the staged bytes stand is those bytes. -/
theorem delivered_eq_staged {s u v : State} {a : Arena} {lo : Nat}
    (hv : v = u.deliver (u.readBytes a.space lo s.fldlen.toNat) (lo + s.fldlen.toNat))
    (hs : lo + s.fldlen.toNat ≤ u.len a)
    (hbody : ∀ j, j < s.fldlen.toNat → u.readByte a.space (lo + j) = s.readByte .fld j) :
    v.fldlen = s.fldlen ∧ ∀ j, j < s.fldlen.toNat → v.readByte .fld j = s.readByte .fld j := by
  obtain ⟨hbytes, -, hlen, -⟩ := State.deliver_body hv (Nat.le_of_lt_succ s.fldlen.isLt) hs
  exact ⟨BitVec.eq_of_toNat_eq hlen, fun j hj => (hbytes j hj).trans (hbody j hj)⟩

/-- Settles O47: the field stands as installed (`installed_leaves_field`), so its prefix announces the body, and the
body is what is delivered (`delivered_eq_staged`). -/
theorem bodiesReadBackAsInstalled : Obligations.BodiesReadBackAsInstalled := by
  intro a off m x s t _ ht
  refine ⟨fun h => ?_, fun h => ?_⟩
  · rw [exec_gett]
    obtain ⟨hk, hnew, old, -, hs, hroom, hdone⟩ := exec_putt_completes h ht
    obtain ⟨hk', hs', hpre, hbody⟩ := installed_leaves_field hdone rfl hk (dec_length ..) hs hroom
    exact ⟨_, textField_of_prefix hk' (textPrefix_iff.2 ⟨Nat.lt_succ_of_le hnew, hpre⟩) hs', ht,
      delivered_eq_staged rfl hs' hbody⟩
  · rw [exec_getb]
    obtain ⟨hk, old, -, hs, hroom, hdone⟩ := exec_putb_completes h ht
    obtain ⟨hk', hs', hpre, hbody⟩ := installed_leaves_field hdone rfl hk (be_length ..) hs hroom
    exact ⟨_, binaryField_of_prefix hk' (binaryPrefix_iff.2 ⟨s.fldlen.isLt, hpre⟩) hs', ht,
      delivered_eq_staged rfl hs' hbody⟩

/-! ## The last byte (R197) -/

/-- The last byte of a command is the last of a tail that is not empty, and travels with it. -/
theorem installed_keeps_last {s t : State} {a : Arena} {off old p : Nat} {pre : List Byte}
    (ht : t = s.installed a off old pre s.staged) (hp : pre.length = p) (hs : off + p + old < s.len a)
    (hroom : s.len a - old + s.fldlen.toNat ≤ s.debsize.toNat) :
    t.readByte a.space (t.len a - 1) = s.readByte a.space (s.len a - 1) := by
  obtain ⟨hlen, -, -, htail, -⟩ := State.installed_staged ht hp hs.le hroom
  obtain ⟨j, hj⟩ : ∃ j, s.len a - 1 = off + p + old + j := Nat.exists_eq_add_of_le (by omega)
  have hlast : t.len a - 1 = off + p + s.fldlen.toNat + j := by omega
  rw [hlast, hj, htail j (by omega)]

/-- Settles O48: the prefix fixes the old length, so the installation is the one of a field that ends before the last
byte (`installed_keeps_last`). -/
theorem lastByteTravelsWithTheTail : Obligations.LastByteTravelsWithTheTail := by
  intro a off old s t _ ht
  refine ⟨fun hpre hs h => ?_, fun hpre hs h => ?_⟩
  · obtain ⟨_, _, old', hpre', _, hroom, hdone⟩ := exec_putt_completes h ht
    obtain rfl := hpre.unique hpre'
    exact installed_keeps_last hdone (dec_length ..) hs hroom
  · obtain ⟨_, old', hpre', _, hroom, hdone⟩ := exec_putb_completes h ht
    obtain rfl := hpre.unique hpre'
    exact installed_keeps_last hdone (be_length ..) hs hroom

end Sys2Proof.Machine
end

section
/-! PROOFS of the run-length family, sub-records (30_encoding.md R127): the fields of a header, and what the loop of
`RLDEC` does with the sub-records in front of it (43_rlc.md R219). -/

namespace Sys2Proof.Machine

/-! ## Headers -/

theorem subHeader_toNat {n : Nat} (hn : n ≤ 63) (eor rep : Bool) :
    (subHeader eor rep n).toNat = (if eor then 0x80 else 0) + (if rep then 0x40 else 0) + n :=
  Nat.mod_eq_of_lt (by split <;> split <;> omega)

theorem headerCount_eq (h : Byte) : headerCount h = h.toNat % 64 := by
  simp [headerCount]

theorem headerCount_subHeader {n : Nat} (hn : n ≤ 63) (eor rep : Bool) :
    headerCount (subHeader eor rep n) = n := by
  rw [headerCount_eq, subHeader_toNat hn]
  split <;> split <;> omega

theorem headerRep_subHeader {n : Nat} (hn : n ≤ 63) (eor rep : Bool) :
    headerRep (subHeader eor rep n) = rep := by
  rw [headerRep, BitVec.getLsbD, subHeader_toNat hn, Nat.testBit_eq_decide_div_mod_eq]
  cases eor <;> cases rep <;> simp <;> omega

theorem headerEor_subHeader {n : Nat} (hn : n ≤ 63) (eor rep : Bool) :
    headerEor (subHeader eor rep n) = eor := by
  rw [headerEor, BitVec.getLsbD, subHeader_toNat hn, Nat.testBit_eq_decide_div_mod_eq]
  cases eor <;> cases rep <;> simp <;> omega

/-! ## Sub-records and their lists -/

theorem SubRec.wire_eq (r : SubRec) : r.wire = subHeader r.eor r.rep r.count :: r.data := rfl

theorem SubRec.wire_length (r : SubRec) : r.wire.length = 1 + r.data.length := Nat.add_comm _ _

theorem SubRec.valid_iff (r : SubRec) :
    r.valid = true ↔ r.count ≤ 63 ∧ r.data.length = if r.rep then 1 else r.count := by
  simp [SubRec.valid]

@[simp] theorem wires_nil : wires [] = [] := rfl
@[simp] theorem wires_cons (r : SubRec) (rs : List SubRec) : wires (r :: rs) = r.wire ++ wires rs := rfl
@[simp] theorem wires_append (rs qs : List SubRec) : wires (rs ++ qs) = wires rs ++ wires qs := List.flatMap_append
@[simp] theorem values_nil : values [] = [] := rfl
@[simp] theorem values_cons (r : SubRec) (rs : List SubRec) : values (r :: rs) = r.value ++ values rs := rfl
@[simp] theorem values_append (rs qs : List SubRec) : values (rs ++ qs) = values rs ++ values qs :=
  List.flatMap_append

section
variable {r : SubRec} (hr : r.valid = true)
include hr

theorem SubRec.count_le : r.count ≤ 63 := (r.valid_iff.1 hr).1

theorem SubRec.data_length : r.data.length = if r.rep then 1 else r.count := (r.valid_iff.1 hr).2

theorem SubRec.value_length : r.value.length = r.count := by
  have hdata := r.data_length hr
  unfold SubRec.value
  split <;> simp_all

theorem SubRec.headerNeed_eq : headerNeed (subHeader r.eor r.rep r.count) = r.data.length := by
  rw [headerNeed, headerRep_subHeader (r.count_le hr), headerCount_subHeader (r.count_le hr), r.data_length hr]

/-- The bytes a header and what follows it stand for are the value of the sub-record they spell. -/
theorem SubRec.expandRecord_eq (rest : List Byte) :
    expandRecord (subHeader r.eor r.rep r.count) (r.data ++ rest) = r.value := by
  have hdata := r.data_length hr
  rw [expandRecord, headerRep_subHeader (r.count_le hr), headerCount_subHeader (r.count_le hr), SubRec.value]
  split <;> rename_i hrep
  · rw [if_pos hrep] at hdata
    obtain ⟨b, hb⟩ := List.length_eq_one_iff.1 hdata
    rw [hb]
    rfl
  · rw [if_neg hrep] at hdata
    rw [← hdata, List.take_left]

end

/-! ## The loop of `RLDEC` -/

/-- The loop of `RLDEC` with the fuel `State.decoded` gives it. -/
def decodeBytes (room : Nat) (bs : List Byte) : Decoded := decodeLoop bs.length room bs

theorem State.decoded_eq (s : State) (a : Arena) : s.decoded a =
    decodeBytes (s.par.fbufCap - s.flen.toNat) (s.readBytes a.space s.dpos.toNat (s.len a - s.dpos.toNat)) := rfl

/-- Fuel for every byte left is as good as any more of it. -/
theorem decodeLoop_of_le {fuel : Nat} {bs : List Byte} (hfuel : bs.length ≤ fuel) (room : Nat) :
    decodeLoop fuel room bs = decodeBytes room bs := by
  suffices h : ∀ n, bs.length ≤ n → decodeLoop fuel room bs = decodeLoop n room bs from h _ le_rfl
  induction fuel generalizing bs room with
  | zero =>
    obtain rfl := List.eq_nil_of_length_eq_zero (Nat.le_zero.1 hfuel)
    intro n _
    cases n <;> rfl
  | succ fuel ih =>
    intro n hn
    cases bs with
    | nil => cases n <;> rfl
    | cons h rest =>
      rw [List.length_cons] at hfuel hn
      obtain ⟨n, rfl⟩ := Nat.exists_eq_add_of_le' (by omega : 1 ≤ n)
      have hdrop := List.length_drop (i := headerNeed h) (l := rest)
      simp only [decodeLoop]
      rw [ih (by omega) _ n (by omega)]

/-- What the loop answers when it stops after the sub-records `rs`. -/
def Decoded.after (rs : List SubRec) (stop : DecodeStop) : Decoded :=
  ⟨values rs, (wires rs).length, rs.getLast?.map SubRec.eor, stop⟩

theorem decodeBytes_nil (room : Nat) : decodeBytes room [] = .after [] .atEnd := rfl

theorem decodeBytes_truncated {h : Byte} {rest : List Byte} (hshort : rest.length < headerNeed h) (room : Nat) :
    decodeBytes room (h :: rest) = .after [] .truncated :=
  if_pos hshort

section
variable {r : SubRec} (hr : r.valid = true) {room : Nat} (rest : List Byte)
include hr

theorem decodeBytes_wire : decodeBytes room (r.wire ++ rest) =
    if room < r.count then .after [] .bufferFull
    else if r.eor then .after [r] .atEor
    else
      let d := decodeBytes (room - r.count) rest
      ⟨r.value ++ d.bytes, r.wire.length + d.used, some (d.lastEor.getD false), d.stop⟩ := by
  have hneed := r.headerNeed_eq hr
  rw [decodeBytes, SubRec.wire_eq, List.cons_append, List.length_cons, decodeLoop, hneed, r.expandRecord_eq hr,
    headerCount_subHeader (r.count_le hr), headerEor_subHeader (r.count_le hr), List.drop_left,
    if_neg (by simp), decodeLoop_of_le (by simp)]
  split
  · rfl
  · split <;> rename_i heor
    · simp [Decoded.after, heor, SubRec.wire_length]
    · rw [← SubRec.wire_eq, SubRec.wire_length]

theorem decodeBytes_full (hfull : room < r.count) :
    decodeBytes room (r.wire ++ rest) = .after [] .bufferFull := by
  rw [decodeBytes_wire hr, if_pos hfull]

theorem decodeBytes_eor (hroom : r.count ≤ room) (heor : r.eor = true) :
    decodeBytes room (r.wire ++ rest) = .after [r] .atEor := by
  rw [decodeBytes_wire hr, if_neg (Nat.not_lt.2 hroom), if_pos heor]

/-- A sub-record without the end-of-record bit is delivered before what the loop delivers behind it. -/
theorem decodeBytes_next (hroom : r.count ≤ room) (heor : r.eor = false) {qs : List SubRec} {stop : DecodeStop}
    (hrest : decodeBytes (room - r.count) rest = .after qs stop) :
    decodeBytes room (r.wire ++ rest) = .after (r :: qs) stop := by
  rw [decodeBytes_wire hr, if_neg (Nat.not_lt.2 hroom), if_neg (by simp [heor]), hrest]
  simp only [Decoded.after, List.getLast?_cons, Option.map_some, values_cons, wires_cons, List.length_append]
  rw [← heor, Option.getD_map]

end

/-- Sub-records without an end-of-record bit are delivered before what the loop delivers behind them. -/
theorem decodeBytes_wires {rs qs : List SubRec} {rest : List Byte} {room : Nat} {stop : DecodeStop}
    (hrs : ∀ r ∈ rs, r.valid = true ∧ r.eor = false) (hroom : (values rs).length ≤ room)
    (hrest : decodeBytes (room - (values rs).length) rest = .after qs stop) :
    decodeBytes room (wires rs ++ rest) = .after (rs ++ qs) stop := by
  induction rs generalizing room with
  | nil => exact hrest
  | cons r rs ih =>
    obtain ⟨⟨hr, heor⟩, hrs⟩ := List.forall_mem_cons.1 hrs
    rw [values_cons, List.length_append, r.value_length hr] at hroom hrest
    rw [wires_cons, List.append_assoc]
    refine decodeBytes_next hr _ (by omega) heor (ih hrs (by omega) ?_)
    rwa [Nat.sub_sub]

end Sys2Proof.Machine
end

section
/-! PROOFS of the run-length family, `RLDEC`, `RLINIT` and `RLEOS` (43_rlc.md R211, R219, R224). -/

namespace Sys2Proof.Machine

/-! ## The state a delivery leaves (R219) -/

section
variable {s : State} {a : Arena} {rs : List SubRec} {stop : DecodeStop}

@[simp] theorem State.appendDecoded_readByte (s : State) (d : Decoded) (q : Space) (i : Nat) :
    (s.appendDecoded d).readByte q i = (s.writeBytes .fbuf s.flen.toNat d.bytes).readByte q i := by
  cases q <;> rfl

@[simp] theorem State.appendDecoded_len (s : State) (d : Decoded) (a : Arena) :
    (s.appendDecoded d).len a = s.len a := by
  cases a <;> rfl

theorem State.appendDecoded_after_dpos (hle : s.dpos.toNat + (wires rs).length ≤ s.len a) :
    (s.appendDecoded (.after rs stop)).dpos.toNat = s.dpos.toNat + (wires rs).length := by
  have hfit := hle.trans_lt (s.len_lt a)
  exact Nat.mod_eq_of_lt hfit

/-- The sub-records before the stop are delivered. -/
theorem State.appendDecoded_after_delivered (hp : s.par.legal = true)
    (hcap : s.flen.toNat + (values rs).length ≤ s.par.fbufCap)
    (hle : s.dpos.toNat + (wires rs).length ≤ s.len a) :
    Delivered rs s (s.appendDecoded (.after rs stop)) := by
  obtain ⟨-, -, _⟩ := Params.legal_caps hp
  have hfit : s.flen.toNat + (values rs).length < 2 ^ 18 := by omega
  refine ⟨?_, fun q i hi => ?_, Nat.mod_eq_of_lt hfit, appendDecoded_after_dpos hle, rfl, rfl⟩
  · refine (State.readBytes_congr fun j _ => ?_).trans
      (s.readBytes_writeBytes_same .fbuf s.flen.toNat (values rs))
    exact s.appendDecoded_readByte ..
  · exact (s.appendDecoded_readByte ..).trans (s.readByte_writeBytes_other hi)

end

/-! ## The branches of `RLDEC` (R219) -/

theorem exec_rldec (a : Arena) (s : State) : exec (.rldec a) s = execRldec a s := rfl

theorem exec_rldec_of_not_data {a : Arena} {s : State} (hk : s.kind a ≠ some .data) :
    exec (.rldec a) s = .next (s.raisedBy (.rldec a) .state (if a = .a0 then 0 else 1) 0) := by
  rw [exec_rldec, execRldec, if_neg hk]
  cases a <;> rfl

theorem exec_rldec_of_outside {a : Arena} {s : State} (hk : s.kind a = some .data)
    (hd : s.dpos.toNat = 0 ∨ s.len a < s.dpos.toNat) :
    exec (.rldec a) s = .next (s.raisedBy (.rldec a) .bounds s.dpos.toNat 0) := by
  rw [exec_rldec, execRldec, if_pos hk, if_neg (by omega), raise_raisedBy]

section
variable {s : State} {a : Arena} {rs : List SubRec} {stop : DecodeStop} (hle : s.dpos.toNat ≤ s.len a)
  (hd : s.decoded a = .after rs stop)
include hle hd

theorem dpos_add_wires_le : s.dpos.toNat + (wires rs).length ≤ s.len a := by
  have hused := (s.decoded_le a).2
  rw [hd] at hused
  change (wires rs).length ≤ _ at hused
  omega

variable (hp : s.par.legal = true) (hk : s.kind a = some .data) (hpos : 1 ≤ s.dpos.toNat)
  (hcap : s.flen.toNat + (values rs).length ≤ s.par.fbufCap)
include hp hk hpos hcap

/-- `RLDEC` completes where no header announces too much: what it leaves, by the reason its loop ended. -/
theorem exec_rldec_completes (hstop : stop ≠ .truncated) :
    ∃ t, exec (.rldec a) s = .next t ∧ t.err = s.err ∧ Delivered rs s t ∧
      SameRegsBut [.flen, .dpos, .codec] s t ∧ t.codec.feor = decide (stop = .atEor) ∧
      t.codec.full = decide (stop = .bufferFull) ∧
      t.codec.ddone = decide (s.dpos.toNat + (wires rs).length = s.len a) := by
  have hused := dpos_add_wires_le hle hd
  have hexec : exec (.rldec a) s = .next ((s.appendDecoded (.after rs stop)).setDdone a) := by
    rw [exec_rldec, execRldec, if_pos hk, if_pos ⟨hpos, hle⟩, hd]
    exact if_neg hstop
  have hdone : ((s.appendDecoded (.after rs stop)).setDdone a).codec.ddone =
      decide (s.dpos.toNat + (wires rs).length = s.len a) := by
    rw [← State.appendDecoded_after_dpos (stop := stop) hused, ← s.appendDecoded_len (.after rs stop) a]
    rfl
  refine ⟨_, hexec, by simp [State.setDdone, State.appendDecoded],
    State.appendDecoded_after_delivered hp hcap hused, ?_, rfl, rfl, hdone⟩
  exact ((s.appendDecoded_sameRegs _).trans (State.setDdone_sameRegs _ a)).mono (by simp)

/-- `RLDEC` raises `E_SUBREC` with the offset of the header that announces too much. -/
theorem exec_rldec_truncated (hstop : stop = .truncated) :
    ∃ t, exec (.rldec a) s = .next (t.raisedBy (.rldec a) .subrec t.dpos.toNat 0) ∧ Delivered rs s t ∧
      SameRegsBut [.flen, .dpos, .codec] s t ∧ t.codec.feor = false ∧ t.codec.full = false ∧
      t.codec.ddone = s.codec.ddone := by
  subst hstop
  have hused := dpos_add_wires_le hle hd
  refine ⟨s.appendDecoded (.after rs .truncated), ?_, State.appendDecoded_after_delivered hp hcap hused,
    s.appendDecoded_sameRegs _, rfl, rfl, rfl⟩
  rw [exec_rldec, execRldec, if_pos hk, if_pos ⟨hpos, hle⟩, hd, State.appendDecoded_after_dpos hused]
  rfl

end

/-- Settles O53: the loop comes to `rest` with the room the values before it leave (`decodeBytes_wires`), and each
form of `rest` stops it by the `decodeBytes` lemma of that stop. -/
theorem rldecDeliversSubRecordsUpToItsStop : Obligations.RldecDeliversSubRecordsUpToItsStop := by
  intro a s rs rest hp
  refine ⟨by rw [opcField_encode]; rfl, exec_rldec_of_not_data, exec_rldec_of_outside,
    fun hk hpos hle hcap hrs hbytes => ?_⟩
  have reach {qs : List SubRec} {stop : DecodeStop}
      (hrest : decodeBytes (s.par.fbufCap - s.flen.toNat - (values rs).length) rest = .after qs stop) :
      s.decoded a = .after (rs ++ qs) stop := by
    rw [State.decoded_eq, hbytes]
    exact decodeBytes_wires hrs (by omega) hrest
  have hlen : (wires rs).length + rest.length = s.len a - s.dpos.toNat := by
    rw [← List.length_append, ← hbytes, State.readBytes_length]
  refine ⟨?_, ?_, ?_, ?_⟩
  · rintro rfl
    have hd := reach (decodeBytes_nil _)
    rw [List.append_nil] at hd
    obtain ⟨t, hexec, -, hdel, hregs, hfeor, hfull, hdone⟩ :=
      exec_rldec_completes hle hd hp hk hpos hcap nofun
    rw [List.length_nil] at hlen
    exact ⟨t, hexec, hdel, hregs, hfeor, hfull, by rw [hdone, decide_eq_true_iff]; omega⟩
  · rintro r more rfl hr heor hroom
    have hd := reach (decodeBytes_eor hr more (by omega) heor)
    obtain ⟨t, hexec, -, hdel, hregs, hfeor, hfull, hdone⟩ :=
      exec_rldec_completes hle hd hp hk hpos (by simpa [r.value_length hr, ← Nat.add_assoc]) nofun
    refine ⟨t, hexec, hdel, hregs, hfeor, hfull, ?_⟩
    rw [List.length_append] at hlen
    rw [hdone, Bool.eq_iff_iff, decide_eq_true_iff, List.isEmpty_iff_length_eq_zero]
    simp only [wires_append, wires_cons, wires_nil, List.append_nil, List.length_append]
    omega
  · rintro r more rfl hr hfull
    have hd := reach (decodeBytes_full hr more (by omega))
    rw [List.append_nil] at hd
    obtain ⟨t, hexec, -, hdel, hregs, hfeor, hfull, hdone⟩ :=
      exec_rldec_completes hle hd hp hk hpos hcap nofun
    rw [List.length_append, SubRec.wire_length] at hlen
    exact ⟨t, hexec, hdel, hregs, hfeor, hfull, by rw [hdone, decide_eq_false_iff_not]; omega⟩
  · rintro h more rfl hshort
    have hd := reach (decodeBytes_truncated (by rwa [headerNeed, headerRep, headerCount_eq]) _)
    rw [List.append_nil] at hd
    exact exec_rldec_truncated hle hd hp hk hpos hcap rfl

/-! ## `RLINIT` and `RLEOS` (R211, R224) -/

/-- Settles O49: `RLINIT` completes in `State.streamStarted`. -/
theorem rlinitStartsAStream : Obligations.RlinitStartsAStream := by
  refine ⟨by decide, fun s => ⟨s.streamStarted, execRlinit_eq s, ?_, rfl, rfl, s.streamStarted_sameRegs,
    fun q i => ?_⟩⟩
  · simp [State.readReg, State.streamStarted, Codec.toWord, flagBit]
  · cases q <;> rfl

/-- Settles O54: the operation is the test of `LASTEOR`. -/
theorem rleosTestsTheLastEndOfRecordBit : Obligations.RleosTestsTheLastEndOfRecordBit := by
  have hexec (s : State) : exec .rleos s = execRleos s := rfl
  refine ⟨by decide, fun s => ⟨fun heor => ?_, fun heor => ?_⟩⟩
  · rw [hexec, execRleos, if_pos heor]
  · rw [hexec, execRleos, if_neg (by simp [heor]), raise_raisedBy]

end Sys2Proof.Machine
end

section
/-! PROOFS of the run-length family, the encoder (43_rlc.md R212, R213): runs and literals, the greedy cut of a chunk
into sub-records as a relation, and the loop of `RLENC` as that cut. -/

namespace Sys2Proof.Machine

/-! ## Runs (R212) -/

theorem le_length_takeWhile_iff {α : Type} {p : α → Bool} {l : List α} {n : Nat} :
    n ≤ (l.takeWhile p).length ↔ n ≤ l.length ∧ ∀ x ∈ l.take n, p x = true := by
  induction l generalizing n with
  | nil => simp
  | cons y l ih =>
    cases n with
    | zero => simp
    | succ n => by_cases hy : p y = true <;> simp [hy, ih]

/-- A run is at most 63 bytes long, ends with the chunk, and holds one byte value. -/
theorem le_runLen_iff {chunk : List Byte} {n : Nat} :
    n ≤ runLen chunk ↔ n ≤ 63 ∧ n ≤ chunk.length ∧ ∀ x ∈ chunk.take n, x = chunk.headD 0 := by
  cases chunk with
  | nil => simp +contextual [runLen]
  | cons b bs =>
    cases n with
    | zero => simp
    | succ n =>
      have hrun : n + 1 ≤ runLen (b :: bs) ↔ n ≤ ((bs.take 62).takeWhile fun c => c == b).length := by
        rw [runLen]
        omega
      rw [hrun, le_length_takeWhile_iff, List.length_take, List.take_take, List.length_cons, List.take_succ_cons,
        List.forall_mem_cons, List.headD_cons]
      by_cases hn : n ≤ 62
      · simp [hn, Nat.lt_succ_of_le hn]
      · simp only [Nat.add_le_add_iff_right]
        exact iff_of_false (by omega) (by omega)

/-- The bytes of a run are copies of its first. -/
theorem take_runLen (chunk : List Byte) :
    chunk.take (runLen chunk) = List.replicate (runLen chunk) (chunk.headD 0) := by
  obtain ⟨-, hlen, heq⟩ := le_runLen_iff.1 (le_refl (runLen chunk))
  exact List.eq_replicate_iff.2 ⟨by rw [List.length_take, Nat.min_eq_left hlen], heq⟩

theorem runLen_replicate {n : Nat} (hn : n ≤ 63) (b : Byte) : runLen (List.replicate n b) = n := by
  refine Nat.le_antisymm ?_ (le_runLen_iff.2 ⟨hn, by simp, fun x hx => ?_⟩)
  · simpa using runLen_le (List.replicate n b)
  · cases n with
    | zero => cases hx
    | succ n => exact List.eq_of_mem_replicate (List.mem_of_mem_take hx)

theorem collapses_iff {cmpen : Bool} {chunk : List Byte} :
    collapses cmpen chunk = true ↔ cmpen = true ∧ 5 ≤ runLen chunk := by
  simp [collapses, Nat.succ_le_iff]

/-! ## Literals (R213, the inner loop) -/

/-- No collapsible run begins at a byte that joins a literal. -/
theorem collapses_drop_of_lt_literalExtra {cmpen : Bool} {k i : Nat} {bs : List Byte}
    (hi : i < literalExtra cmpen k bs) : collapses cmpen (bs.drop i) = false := by
  induction k generalizing i bs with
  | zero => cases hi
  | succ k ih =>
    cases bs with
    | nil => cases hi
    | cons b bs =>
      rw [literalExtra] at hi
      split at hi <;> rename_i hrun
      · cases hi
      · cases i with
        | zero => exact Bool.eq_false_iff.2 hrun
        | succ i => exact ih (bs := bs) (by omega)

/-- A literal takes no more bytes for one of three reasons: its budget, the chunk's end, a collapsible run. -/
theorem literalExtra_stop (cmpen : Bool) (k : Nat) (bs : List Byte) :
    literalExtra cmpen k bs = k ∨ literalExtra cmpen k bs = bs.length ∨
      collapses cmpen (bs.drop (literalExtra cmpen k bs)) = true := by
  induction k generalizing bs with
  | zero => exact .inl rfl
  | succ k ih =>
    cases bs with
    | nil => exact .inr (.inl rfl)
    | cons b bs =>
      rw [literalExtra]
      split <;> rename_i hrun
      · exact .inr (.inr hrun)
      · rw [Nat.add_comm 1, List.length_cons, Nat.succ_inj, Nat.succ_inj, List.drop_succ_cons]
        exact ih bs

/-! ## The next sub-record (R213) -/

/-- The next sub-record of a chunk, of which `subRecord` gives the bytes. -/
def nextRecord (cmpen feor : Bool) (room : Nat) (chunk : List Byte) : SubRec :=
  let n := subRecordSpan cmpen room chunk
  { eor := feor && (chunk.drop n).isEmpty
    rep := collapses cmpen chunk
    count := n
    data := if collapses cmpen chunk then chunk.take 1 else chunk.take n }

section
variable (cmpen feor : Bool) (room : Nat)

theorem nextRecord_wire (chunk : List Byte) :
    (nextRecord cmpen feor room chunk).wire = subRecord cmpen feor room chunk := by
  unfold subRecord
  by_cases hrun : collapses cmpen chunk = true
  · simp [SubRec.wire_eq, nextRecord, hrun]
  · simp [SubRec.wire_eq, nextRecord, hrun]

theorem nextRecord_count_pos (chunk : List Byte) : 1 ≤ (nextRecord cmpen feor room chunk).count := by
  show 1 ≤ subRecordSpan cmpen room chunk
  unfold subRecordSpan
  split <;> rename_i hrun
  · obtain ⟨-, hfive⟩ := collapses_iff.1 hrun
    omega
  · omega

variable {chunk : List Byte} (hchunk : chunk ≠ [])
include hchunk

theorem nextRecord_count_le : (nextRecord cmpen feor room chunk).count ≤ chunk.length := subRecordSpan_le hchunk

theorem nextRecord_valid : (nextRecord cmpen feor room chunk).valid = true := by
  have hspan : subRecordSpan cmpen room chunk ≤ chunk.length := subRecordSpan_le hchunk
  have hpos := List.length_pos_iff.2 hchunk
  refine (SubRec.valid_iff _).2 ⟨?_, ?_⟩
  · show subRecordSpan cmpen room chunk ≤ 63
    unfold subRecordSpan
    split
    · exact (le_runLen_iff.1 le_rfl).1
    · have := (literalExtra_le cmpen (min 62 (room - 2)) chunk.tail).1
      omega
  · by_cases hrun : collapses cmpen chunk = true
    · simpa [nextRecord, hrun, Nat.succ_le_iff] using hpos
    · simpa [nextRecord, hrun] using hspan

/-- A sub-record stands for the bytes of the chunk it takes. -/
theorem nextRecord_value : (nextRecord cmpen feor room chunk).value =
    chunk.take (nextRecord cmpen feor room chunk).count := by
  simp only [nextRecord, SubRec.value]
  split <;> rename_i hrun
  · obtain ⟨b, bs, rfl⟩ := List.exists_cons_of_ne_nil hchunk
    rw [subRecordSpan, if_pos hrun, take_runLen]
    rfl
  · rfl

end

/-! ## The greedy cut (R213, the outer loop) -/

/-- `rs` is the cut of a chunk into sub-records, greedily from left to right, while bytes of it and 2 bytes of room
last. -/
inductive GreedyCut (cmpen feor : Bool) : Nat → List Byte → List SubRec → Prop where
  | stop {room chunk} (hstop : chunk = [] ∨ room < 2) : GreedyCut cmpen feor room chunk []
  | next {room chunk r rs} (hchunk : chunk ≠ []) (hroom : 2 ≤ room) (hr : r = nextRecord cmpen feor room chunk)
    (hrs : GreedyCut cmpen feor (room - r.wire.length) (chunk.drop r.count) rs) :
    GreedyCut cmpen feor room chunk (r :: rs)

/-- What `RLENC` appends when it sends the sub-records `rs`. -/
def Encoded.sent (rs : List SubRec) : Encoded := ⟨wires rs, (values rs).length, rs.any SubRec.eor⟩

/-- The loop of `RLENC` sends the greedy cut of the chunk. -/
theorem encodeLoop_greedyCut (cmpen feor : Bool) {fuel room : Nat} {chunk : List Byte}
    (hfuel : chunk.length ≤ fuel) :
    ∃ rs, GreedyCut cmpen feor room chunk rs ∧ encodeLoop cmpen feor fuel room chunk = .sent rs := by
  induction fuel generalizing room chunk with
  | zero => exact ⟨[], .stop (.inl (List.eq_nil_of_length_eq_zero (Nat.le_zero.1 hfuel))), rfl⟩
  | succ fuel ih =>
    by_cases hstop : chunk = [] ∨ room < 2
    · exact ⟨[], .stop hstop, by rw [encodeLoop, if_pos (by simpa using hstop)]; rfl⟩
    · obtain ⟨hchunk, hroom⟩ := not_or.1 hstop
      have hpos := nextRecord_count_pos cmpen feor room chunk
      obtain ⟨rs, hrs, hloop⟩ := ih (room := room - (nextRecord cmpen feor room chunk).wire.length)
        (chunk := chunk.drop (nextRecord cmpen feor room chunk).count) (by rw [List.length_drop]; omega)
      refine ⟨_, .next hchunk (by omega) rfl hrs, ?_⟩
      have hvalue := SubRec.value_length (nextRecord_valid cmpen feor room hchunk)
      have hspan : subRecordSpan cmpen room chunk = (nextRecord cmpen feor room chunk).count := rfl
      rw [encodeLoop, if_neg (by simpa using hstop), ← nextRecord_wire, hspan]
      simp only [hloop]
      rw [Encoded.sent, Encoded.sent, values_cons, List.length_append, hvalue]
      rfl

namespace GreedyCut

variable {cmpen feor : Bool} {room : Nat} {chunk : List Byte} {rs : List SubRec}

theorem eq_nil (h : GreedyCut cmpen feor room [] rs) : rs = [] := by
  cases h with
  | stop => rfl
  | next hchunk => exact absurd rfl hchunk

/-- The sub-records stand for the first bytes of the chunk. -/
theorem values_prefix (h : GreedyCut cmpen feor room chunk rs) : values rs <+: chunk := by
  induction h with
  | stop => exact List.nil_prefix
  | @next room chunk r rs hchunk _ hr _ ih =>
    subst hr
    rw [values_cons, nextRecord_value _ _ _ hchunk]
    conv_rhs => rw [← List.take_append_drop (nextRecord cmpen feor room chunk).count chunk]
    exact (List.prefix_append_right_inj _).2 ih

/-- Bytes of the chunk are left only where no room for 2 bytes is. -/
theorem room_lt (h : GreedyCut cmpen feor room chunk rs) (hleft : (values rs).length < chunk.length) :
    room < (wires rs).length + 2 := by
  induction h with
  | stop hstop =>
    rcases hstop with rfl | hroom
    · cases hleft
    · simpa using hroom
  | @next room chunk r rs hchunk _ hr _ ih =>
    subst hr
    rw [values_cons, List.length_append, SubRec.value_length (nextRecord_valid _ _ _ hchunk)] at hleft
    rw [List.length_drop] at ih
    have := ih (by omega)
    rw [wires_cons, List.length_append]
    omega

/-- Each sub-record is the next one of the chunk behind those before it. -/
theorem eq_nextRecord {pre post : List SubRec} {r : SubRec}
    (h : GreedyCut cmpen feor room chunk (pre ++ r :: post)) :
    chunk.drop (values pre).length ≠ [] ∧ 2 ≤ room - (wires pre).length ∧
      r = nextRecord cmpen feor (room - (wires pre).length) (chunk.drop (values pre).length) := by
  induction pre generalizing room chunk with
  | nil =>
    cases h with
    | next hchunk hroom hr _ => exact ⟨hchunk, hroom, hr⟩
  | cons q pre ih =>
    cases h with
    | next hchunk _ hq hrs =>
      have hvalue : q.value.length = q.count := by
        rw [hq]
        exact SubRec.value_length (nextRecord_valid _ _ _ hchunk)
      rw [values_cons, wires_cons, List.length_append, List.length_append, hvalue, ← List.drop_drop, ← Nat.sub_sub]
      exact ih hrs

/-- An end-of-record bit is sent with the last byte of a chunk that ends a record, and with no other. -/
theorem taken_of_eor (h : GreedyCut cmpen feor room chunk rs) (heor : rs.any SubRec.eor = true) :
    feor = true ∧ (values rs).length = chunk.length := by
  induction h with
  | stop => cases heor
  | @next room chunk r rs hchunk _ hr hrs ih =>
    have hcount : r.count ≤ chunk.length := hr ▸ nextRecord_count_le cmpen feor room hchunk
    have hvalue : r.value.length = r.count := hr ▸ SubRec.value_length (nextRecord_valid cmpen feor room hchunk)
    have hrest := hrs.values_prefix.length_le
    rw [values_cons, List.length_append, hvalue]
    rw [List.length_drop] at ih hrest
    rcases Bool.or_eq_true_iff.1 heor with hfirst | hlater
    · have hsent : feor = true ∧ chunk.length ≤ r.count := by
        rw [hr] at hfirst ⊢
        simpa [nextRecord] using hfirst
      exact ⟨hsent.1, by omega⟩
    · obtain ⟨hfeor, hlen⟩ := ih hlater
      exact ⟨hfeor, by omega⟩

/-- The loop of `RLDEC` delivers a cut whole where `FBUF` has room for what it stands for. -/
theorem decodeBytes_wires (h : GreedyCut cmpen feor room chunk rs) {cap : Nat} (hcap : (values rs).length ≤ cap) :
    decodeBytes cap (wires rs) = .after rs (if rs.any SubRec.eor then .atEor else .atEnd) := by
  induction h generalizing cap with
  | stop => rfl
  | @next room chunk r rs hchunk _ hr hrs ih =>
    have hvalid : r.valid = true := hr ▸ nextRecord_valid cmpen feor room hchunk
    rw [values_cons, List.length_append, r.value_length hvalid] at hcap
    rw [wires_cons, List.any_cons]
    cases heor : r.eor with
    | true =>
      have hlast : chunk.drop r.count = [] := by
        rw [hr] at heor ⊢
        simpa [nextRecord] using (Bool.and_eq_true_iff.1 heor).2
      obtain rfl := (hlast ▸ hrs).eq_nil
      exact decodeBytes_eor hvalid _ (by omega) heor
    | false => exact decodeBytes_next hvalid _ (by omega) heor (ih (by omega))

end GreedyCut

end Sys2Proof.Machine
end

section
/-! PROOFS of the run-length family, the sub-records `RLENC` sends (43_rlc.md R213): each in the terms of the bytes of
`FBUF`, and all of them together. -/

namespace Sys2Proof.Machine

/-! ## The chunk from an index on -/

/-- The bytes of the chunk from index `p` on. -/
def State.chunkFrom (s : State) (p : Nat) : List Byte := s.readBytes .fbuf p (s.flen.toNat - p)

section
variable (s : State)

@[simp] theorem State.chunkFrom_length (p : Nat) : (s.chunkFrom p).length = s.flen.toNat - p :=
  State.readBytes_length ..

theorem State.readBytes_take (sp : Space) (lo : Nat) {n m : Nat} (h : m ≤ n) :
    (s.readBytes sp lo n).take m = s.readBytes sp lo m := by
  rw [State.readBytes, ← List.map_take, List.take_range, Nat.min_eq_left h, State.readBytes]

theorem State.chunkFrom_drop (p n : Nat) : (s.chunkFrom p).drop n = s.chunkFrom (p + n) := by
  refine List.ext_getElem (by simp [Nat.sub_sub]) fun i _ _ => ?_
  simp only [State.chunkFrom, List.getElem_drop, State.readBytes_getElem, Nat.add_assoc]

theorem State.chunkFrom_ne_nil_iff (p : Nat) : s.chunkFrom p ≠ [] ↔ p < s.flen.toNat := by
  rw [← List.length_pos_iff, State.chunkFrom_length]
  omega

theorem State.chunkFrom_headD {p : Nat} (hp : p < s.flen.toNat) : (s.chunkFrom p).headD 0 = s.readByte .fbuf p := by
  obtain ⟨m, hm⟩ := Nat.exists_eq_add_of_le' (Nat.sub_pos_of_lt hp)
  rw [State.chunkFrom, hm, State.readBytes, List.range_succ_eq_map]
  rfl

theorem State.le_runLen_chunkFrom_iff {p n : Nat} (hp : p < s.flen.toNat) : n ≤ runLen (s.chunkFrom p) ↔
    n ≤ 63 ∧ p + n ≤ s.flen.toNat ∧ ∀ j, j < n → s.readByte .fbuf (p + j) = s.readByte .fbuf p := by
  rw [le_runLen_iff, s.chunkFrom_headD hp, State.chunkFrom_length]
  refine and_congr_right fun _ => ?_
  rw [show n ≤ s.flen.toNat - p ↔ p + n ≤ s.flen.toNat by omega]
  refine and_congr_right fun hn => ?_
  rw [State.chunkFrom, s.readBytes_take _ _ (by omega)]
  simp [State.readBytes]

/-- A repeat begins where compression is on and five equal bytes begin (R212, R213). -/
theorem State.collapses_chunkFrom_iff (cmpen : Bool) (p : Nat) :
    collapses cmpen (s.chunkFrom p) = true ↔ cmpen = true ∧ RunOfFive s p := by
  rw [collapses_iff]
  refine and_congr_right fun _ => ?_
  by_cases hp : p < s.flen.toNat
  · rw [s.le_runLen_chunkFrom_iff hp]
    simp [RunOfFive]
  · have hle := runLen_le (s.chunkFrom p)
    rw [State.chunkFrom_length] at hle
    exact iff_of_false (by omega) fun ⟨hfive, _⟩ => by omega

/-- A run ends at 63 bytes, at the chunk's end or before another byte value. -/
theorem State.runLen_chunkFrom_stop {p : Nat} (hp : p < s.flen.toNat) :
    runLen (s.chunkFrom p) = 63 ∨ p + runLen (s.chunkFrom p) = s.flen.toNat ∨
      s.readByte .fbuf (p + runLen (s.chunkFrom p)) ≠ s.readByte .fbuf p := by
  obtain ⟨hmax, hend, heq⟩ := (s.le_runLen_chunkFrom_iff hp).1 le_rfl
  by_contra! hgo
  obtain ⟨hne, hlt, hbyte⟩ := hgo
  refine Nat.not_succ_le_self (runLen (s.chunkFrom p))
    ((s.le_runLen_chunkFrom_iff hp).2 ⟨by omega, by omega, fun j hj => ?_⟩)
  obtain hj | rfl := Nat.lt_succ_iff_lt_or_eq.1 hj
  · exact heq j hj
  · exact hbyte

end

/-! ## What R213 fixes of a sub-record -/

/-- What R213 fixes of a sub-record that begins at index `p` of the chunk, with `room` bytes of the command left. -/
def GreedyAt (s : State) (p room : Nat) (r : SubRec) : Prop :=
  r.valid = true ∧ (r.count = 0 → s.flen = 0 ∧ s.codec.feor = true) ∧
  r.eor = (s.codec.feor && decide (p + r.count = s.flen.toNat)) ∧
  (r.rep = true ↔ s.ctrl.cmpen = true ∧ RunOfFive s p) ∧
  (r.rep = true → r.count = 63 ∨ p + r.count = s.flen.toNat ∨
    s.readByte .fbuf (p + r.count) ≠ s.readByte .fbuf p) ∧
  (r.rep = false → (∀ j, p < j → j < p + r.count → s.ctrl.cmpen = true → ¬ RunOfFive s j) ∧
    (r.count = 63 ∨ p + r.count = s.flen.toNat ∨ r.wire.length = room ∨
      (s.ctrl.cmpen = true ∧ RunOfFive s (p + r.count))))

/-- A literal ends before the next collapsible run, and only there, at 63 bytes, at the chunk's end or where the room
ends. -/
theorem nextRecord_literal {s : State} {p room : Nat} (hp : p < s.flen.toNat) (hroom : 2 ≤ room) {r : SubRec}
    (hr : r = nextRecord s.ctrl.cmpen s.codec.feor room (s.chunkFrom p)) (hrep : r.rep = false) :
    (∀ j, p < j → j < p + r.count → s.ctrl.cmpen = true → ¬ RunOfFive s j) ∧
      (r.count = 63 ∨ p + r.count = s.flen.toNat ∨ r.wire.length = room ∨
        (s.ctrl.cmpen = true ∧ RunOfFive s (p + r.count))) := by
  have hchunk := (s.chunkFrom_ne_nil_iff p).2 hp
  have hlit : collapses s.ctrl.cmpen (s.chunkFrom p) = false := by rw [← hrep, hr]; rfl
  have hvalid : r.valid = true := hr ▸ nextRecord_valid s.ctrl.cmpen s.codec.feor room hchunk
  have hwire : r.wire.length = 1 + r.count := by rw [r.wire_length, r.data_length hvalid, hrep]; rfl
  have htail : (s.chunkFrom p).tail = s.chunkFrom (p + 1) := by rw [← List.drop_one, State.chunkFrom_drop]
  have hcount : r.count = 1 + literalExtra s.ctrl.cmpen (min 62 (room - 2)) (s.chunkFrom (p + 1)) := by
    rw [hr, ← htail]
    exact if_neg (Bool.eq_false_iff.1 hlit)
  refine ⟨fun j hpj hjq hcmp hrun => ?_, ?_⟩
  · obtain ⟨i, rfl⟩ := Nat.exists_eq_add_of_lt hpj
    have hjoins := collapses_drop_of_lt_literalExtra (cmpen := s.ctrl.cmpen) (k := min 62 (room - 2)) (i := i)
      (bs := s.chunkFrom (p + 1)) (by omega)
    rw [State.chunkFrom_drop, Nat.add_right_comm] at hjoins
    exact Bool.eq_false_iff.1 hjoins ((s.collapses_chunkFrom_iff _ _).2 ⟨hcmp, hrun⟩)
  · rw [hwire]
    rcases literalExtra_stop s.ctrl.cmpen (min 62 (room - 2)) (s.chunkFrom (p + 1)) with hstop | hstop | hstop
    · omega
    · rw [State.chunkFrom_length] at hstop
      omega
    · rw [State.chunkFrom_drop, Nat.add_assoc, ← hcount] at hstop
      exact .inr (.inr (.inr ((s.collapses_chunkFrom_iff _ _).1 hstop)))

theorem nextRecord_greedyAt {s : State} {p room : Nat} (hp : p < s.flen.toNat) (hroom : 2 ≤ room) :
    GreedyAt s p room (nextRecord s.ctrl.cmpen s.codec.feor room (s.chunkFrom p)) := by
  have hchunk := (s.chunkFrom_ne_nil_iff p).2 hp
  have hpos := nextRecord_count_pos s.ctrl.cmpen s.codec.feor room (s.chunkFrom p)
  have hle := nextRecord_count_le s.ctrl.cmpen s.codec.feor room hchunk
  rw [State.chunkFrom_length] at hle
  refine ⟨nextRecord_valid _ _ _ hchunk, fun h0 => by omega, ?_, s.collapses_chunkFrom_iff _ _, fun hrep => ?_,
    nextRecord_literal hp hroom rfl⟩
  · refine congrArg (s.codec.feor && ·) ?_
    rw [State.chunkFrom_drop, Bool.eq_iff_iff, List.isEmpty_iff_length_eq_zero, State.chunkFrom_length,
      decide_eq_true_iff]
    change s.flen.toNat - (p + (nextRecord s.ctrl.cmpen s.codec.feor room (s.chunkFrom p)).count) = 0 ↔ _
    omega
  · have hrun : (nextRecord s.ctrl.cmpen s.codec.feor room (s.chunkFrom p)).count = runLen (s.chunkFrom p) :=
      if_pos hrep
    rw [hrun]
    exact s.runLen_chunkFrom_stop hp

/-- The sub-record of a chunk of no bytes that ends a record: the header 0x80 alone (R213). -/
def emptyRecord : SubRec := ⟨true, false, 0, []⟩

theorem emptyRecord_greedyAt {s : State} {p : Nat} (hp : p ≤ s.flen.toNat) (hflen : s.flen = 0)
    (hfeor : s.codec.feor = true) (room : Nat) : GreedyAt s p room emptyRecord := by
  rw [hflen] at hp
  obtain rfl : p = 0 := Nat.le_zero.1 hp
  refine ⟨rfl, fun _ => ⟨hflen, hfeor⟩, ?_, ?_, nofun, fun _ => ⟨fun j hj hj' => ?_, .inr (.inl ?_)⟩⟩
  · simp [emptyRecord, hflen, hfeor]
  · simp [emptyRecord, RunOfFive, hflen]
  · exact absurd hj' (Nat.not_lt.2 hj.le)
  · simp [emptyRecord, hflen]

/-! ## The sub-records `RLENC` sends (R213) -/

/-- `RLENC` sends `rs`: the empty record, or the greedy cut of the chunk, which is empty where the header of an empty
record finds no room. -/
def Sends (s : State) (a : Arena) (rs : List SubRec) : Prop :=
  (s.flen = 0 ∧ s.codec.feor = true ∧ s.len a < s.debsize.toNat ∧ rs = [emptyRecord]) ∨
  (GreedyCut s.ctrl.cmpen s.codec.feor (s.debsize.toNat - s.len a) (s.chunkFrom s.fpos.toNat) rs ∧
    (s.flen = 0 → s.codec.feor = true → s.debsize.toNat ≤ s.len a))

theorem State.encoded_sends (s : State) (a : Arena) : ∃ rs, Sends s a rs ∧ s.encoded a = .sent rs := by
  by_cases hempty : s.flen = 0 ∧ s.codec.feor = true
  · have henc : s.encoded a = encodeEmptyRecord (s.debsize.toNat - s.len a) := if_pos hempty
    obtain ⟨hflen, hfeor⟩ := hempty
    by_cases hroom : s.len a < s.debsize.toNat
    · refine ⟨_, .inl ⟨hflen, hfeor, hroom, rfl⟩, ?_⟩
      rw [henc, encodeEmptyRecord, if_pos (by omega)]
      rfl
    · refine ⟨[], .inr ⟨.stop (.inr (by omega)), fun _ _ => by omega⟩, ?_⟩
      rw [henc, encodeEmptyRecord, if_neg (by omega)]
      rfl
  · obtain ⟨rs, hcut, hloop⟩ := encodeLoop_greedyCut s.ctrl.cmpen s.codec.feor
      (room := s.debsize.toNat - s.len a) (le_refl (s.chunkFrom s.fpos.toNat).length)
    exact ⟨rs, .inr ⟨hcut, fun hflen hfeor => absurd ⟨hflen, hfeor⟩ hempty⟩, (if_neg hempty).trans hloop⟩

namespace Sends

variable {s : State} {a : Arena} {rs : List SubRec}

theorem values_prefix (h : Sends s a rs) : values rs <+: s.chunkFrom s.fpos.toNat := by
  rcases h with ⟨-, -, -, rfl⟩ | ⟨hcut, -⟩
  · exact List.nil_prefix
  · exact hcut.values_prefix

theorem values_eq (h : Sends s a rs) (hused : s.fpos.toNat + (values rs).length ≤ s.flen.toNat) :
    values rs = s.readBytes .fbuf s.fpos.toNat (values rs).length := by
  have htake := List.prefix_iff_eq_take.1 h.values_prefix
  rwa [State.chunkFrom, s.readBytes_take _ _ (by omega)] at htake

/-- Each sub-record is as R213 fixes it at the place the ones before it leave. -/
theorem greedyAt (h : Sends s a rs) (hfpos : s.fpos.toNat ≤ s.flen.toNat) {pre post : List SubRec} {r : SubRec}
    (hrs : rs = pre ++ r :: post) :
    GreedyAt s (s.fpos.toNat + (values pre).length) (s.debsize.toNat - s.len a - (wires pre).length) r := by
  subst hrs
  rcases h with ⟨hflen, hfeor, -, hrs⟩ | ⟨hcut, -⟩
  · cases pre with
    | nil =>
      obtain ⟨rfl, -⟩ := List.cons.inj hrs
      exact emptyRecord_greedyAt hfpos hflen hfeor _
    | cons q pre => simp at hrs
  · obtain ⟨hchunk, hroom, hr⟩ := hcut.eq_nextRecord
    rw [State.chunkFrom_drop] at hchunk hr
    rw [hr]
    exact nextRecord_greedyAt ((s.chunkFrom_ne_nil_iff _).1 hchunk) hroom

theorem room_lt (h : Sends s a rs) (hleft : s.fpos.toNat + (values rs).length < s.flen.toNat) :
    s.debsize.toNat < s.len a + (wires rs).length + 2 := by
  rcases h with ⟨hflen, -⟩ | ⟨hcut, -⟩
  · simp [hflen] at hleft
  · have := hcut.room_lt (by rw [State.chunkFrom_length]; omega)
    omega

theorem length_eq_one (h : Sends s a rs) (hflen : s.flen = 0) (hfeor : s.codec.feor = true)
    (hroom : s.len a + 1 ≤ s.debsize.toNat) : rs.length = 1 := by
  rcases h with ⟨-, -, -, rfl⟩ | ⟨-, hfull⟩
  · rfl
  · have := hfull hflen hfeor
    omega

theorem taken_of_eor (h : Sends s a rs) (hfpos : s.fpos.toNat ≤ s.flen.toNat) (heor : rs.any SubRec.eor = true) :
    s.codec.feor = true ∧ s.fpos.toNat + (values rs).length = s.flen.toNat := by
  rcases h with ⟨hflen, hfeor, -, rfl⟩ | ⟨hcut, -⟩
  · have hz : s.flen.toNat = 0 := by simp [hflen]
    exact ⟨hfeor, by simpa [hz, emptyRecord, SubRec.value] using hfpos⟩
  · obtain ⟨hfeor, hlen⟩ := hcut.taken_of_eor heor
    rw [State.chunkFrom_length] at hlen
    exact ⟨hfeor, by omega⟩

theorem decodeBytes_wires (h : Sends s a rs) {cap : Nat} (hcap : (values rs).length ≤ cap) :
    decodeBytes cap (wires rs) = .after rs (if rs.any SubRec.eor then .atEor else .atEnd) := by
  rcases h with ⟨-, -, -, rfl⟩ | ⟨hcut, -⟩
  · exact decodeBytes_eor (r := emptyRecord) rfl [] (Nat.zero_le _) rfl
  · exact hcut.decodeBytes_wires hcap

end Sends

end Sys2Proof.Machine
end

section
/-! PROOFS of the run-length family, `RLENC` (43_rlc.md R213, R225): the state it leaves, and that `RLDEC` restores the
bytes it took. -/

namespace Sys2Proof.Machine

/-! ## The state `RLENC` leaves (R213) -/

theorem exec_rlenc (a : Arena) (s : State) : exec (.rlenc a) s = execRlenc a s := rfl

@[simp] theorem State.appendEncoded_readByte (s : State) (a : Arena) (e : Encoded) (q : Space) (i : Nat) :
    (s.appendEncoded a e).readByte q i = (s.writeBytes a.space (s.len a) e.bytes).readByte q i := by
  have hbytes : (s.appendEncoded a e).readByte q i = ((s.writeBytes a.space (s.len a) e.bytes).setLen a
      (s.len a + e.bytes.length)).readByte q i := by cases q <;> rfl
  rw [hbytes, State.setLen_readByte]

section
variable {s t : State} {a : Arena} {rs : List SubRec} (ht : t = s.appendEncoded a (.sent rs))
include ht

theorem sent_readBytes : t.readBytes a.space (s.len a) (wires rs).length = wires rs := by
  subst ht
  refine (State.readBytes_congr fun j _ => ?_).trans (s.readBytes_writeBytes_same a.space (s.len a) (wires rs))
  exact s.appendEncoded_readByte ..

theorem sent_sameBytesBut : SameBytesBut s t a.space (s.len a) (wires rs).length := by
  subst ht
  exact fun q i hi => (s.appendEncoded_readByte ..).trans (s.readByte_writeBytes_other hi)

theorem sent_len (hroom : s.len a + (wires rs).length ≤ max (s.len a) s.debsize.toNat) :
    t.len a = s.len a + (wires rs).length := by
  subst ht
  have hfit := hroom.trans_lt (max_lt (s.len_lt a) s.debsize.isLt)
  have hlen : (s.appendEncoded a (.sent rs)).len a =
      ((s.writeBytes a.space (s.len a) (wires rs)).setLen a (s.len a + (wires rs).length)).len a := by
    cases a <;> rfl
  rw [hlen, State.setLen_len _ _ _ _ hfit, if_pos rfl]

theorem sent_fpos (hused : s.fpos.toNat + (values rs).length ≤ s.flen.toNat) :
    t.fpos.toNat = s.fpos.toNat + (values rs).length := by
  subst ht
  have hfit := hused.trans_lt s.flen.isLt
  exact Nat.mod_eq_of_lt hfit

theorem sent_codec (hused : s.fpos.toNat + (values rs).length ≤ s.flen.toNat) :
    t.codec = { s.codec with fdone := decide (t.fpos = s.flen) && (!s.codec.feor || rs.any SubRec.eor) } := by
  have hdone : decide (t.fpos = s.flen) = (s.fpos.toNat + (values rs).length == s.flen.toNat) := by
    rw [← sent_fpos ht hused, Bool.eq_iff_iff, decide_eq_true_iff, beq_iff_eq, BitVec.toNat_inj]
  rw [hdone, ht]
  rfl

end

/-- Where its two tests pass `RLENC` sends sub-records that fit below the ceiling, for bytes inside the chunk. -/
theorem exec_rlenc_sends {s : State} {a : Arena} (hk : s.kind a = some .data)
    (hfpos : s.fpos.toNat ≤ s.flen.toNat) :
    ∃ rs, Sends s a rs ∧ exec (.rlenc a) s = .next (s.appendEncoded a (.sent rs)) ∧
      s.len a + (wires rs).length ≤ max (s.len a) s.debsize.toNat ∧
      s.fpos.toNat + (values rs).length ≤ s.flen.toNat := by
  obtain ⟨rs, hsends, henc⟩ := s.encoded_sends a
  obtain ⟨hbytes, hused⟩ := s.encoded_le a
  rw [henc] at hbytes hused
  change (wires rs).length ≤ _ at hbytes
  change (values rs).length ≤ _ at hused
  refine ⟨rs, hsends, ?_, by omega, by omega⟩
  rw [exec_rlenc, execRlenc, if_pos hk, if_pos hfpos, henc]

/-- Settles O50: `RLENC` sends the sub-records of `Sends`, each as `Sends.greedyAt` says. -/
theorem rlencAppendsSubRecordsForTheChunkItTakes : Obligations.RlencAppendsSubRecordsForTheChunkItTakes := by
  intro a s
  refine ⟨by rw [opcField_encode]; rfl, fun hk => ?_, fun hk hfpos => ?_, fun hk hfpos => ?_⟩
  · rw [exec_rlenc, execRlenc, if_neg hk]
    cases a <;> rfl
  · rw [exec_rlenc, execRlenc, if_pos hk, if_neg (Nat.not_le.2 hfpos), raise_raisedBy]
  obtain ⟨rs, hsends, hexec, hroom, hused⟩ := exec_rlenc_sends hk hfpos
  obtain ⟨t, ht⟩ : ∃ t, t = s.appendEncoded a (.sent rs) := ⟨_, rfl⟩
  have hlen := sent_len ht hroom
  have htaken := sent_fpos ht hused
  refine ⟨t, rs, ht ▸ hexec, by omega, by omega, ?_, ?_, by omega, by omega, ?_, fun pre r post hrs => ?_,
    fun hleft => ?_, hsends.length_eq_one, sent_codec ht hused, ht ▸ s.appendEncoded_sameRegs a _⟩
  · rw [hlen, Nat.add_sub_cancel_left, sent_readBytes ht]
  · rw [hlen, Nat.add_sub_cancel_left]
    exact sent_sameBytesBut ht
  · rw [htaken, Nat.add_sub_cancel_left]
    exact hsends.values_eq hused
  · obtain ⟨hvalid, hzero, heor, hrep, hrun, hlit⟩ := hsends.greedyAt hfpos hrs
    refine ⟨hvalid, hzero, heor, hrep, hrun, fun hno => ?_⟩
    obtain ⟨hjoined, hstop⟩ := hlit hno
    refine ⟨hjoined, hstop.imp_right (Or.imp_right (Or.imp_left fun hfull => ?_))⟩
    rw [r.wire_length] at hfull
    rw [wires_append, List.length_append, wires_cons, wires_nil, List.append_nil, r.wire_length]
    omega
  · have := hsends.room_lt (htaken ▸ hleft)
    omega

/-! ## One run (R213) -/

/-- The cut of a run of 5 to 63 bytes is one repeat. -/
theorem greedyCut_replicate {feor : Bool} {room n : Nat} {b : Byte} {rs : List SubRec} (hmin : 5 ≤ n)
    (hmax : n ≤ 63) (hroom : 2 ≤ room) (h : GreedyCut true feor room (List.replicate n b) rs) :
    rs = [⟨feor, true, n, [b]⟩] := by
  have hrun := runLen_replicate hmax b
  have hcol : collapses true (List.replicate n b) = true := collapses_iff.2 ⟨rfl, by rwa [hrun]⟩
  have hspan : subRecordSpan true room (List.replicate n b) = n := (if_pos hcol).trans hrun
  have hnext : nextRecord true feor room (List.replicate n b) = ⟨feor, true, n, [b]⟩ := by
    simp [nextRecord, hspan, hcol, Nat.min_eq_left (by omega : 1 ≤ n)]
  cases h with
  | stop hstop =>
    rcases hstop with hnil | hfull
    · rw [List.replicate_eq_nil_iff] at hnil
      omega
    · omega
  | next _ _ hr hrs =>
    rw [hr, hnext]
    rw [hr, hnext, List.drop_eq_nil_of_le (by simp)] at hrs
    rw [hrs.eq_nil]

/-- Settles O51: the chunk is a `List.replicate`, whose cut is one repeat (`greedyCut_replicate`). -/
theorem rlencCollapsesOneRunToTwoBytes : Obligations.RlencCollapsesOneRunToTwoBytes := by
  intro a b n s hk hcmp hmin hmax hflen hroom hbytes
  obtain ⟨rs, hsends, hexec, hroom', hused⟩ := exec_rlenc_sends hk (by omega)
  obtain ⟨t, ht⟩ : ∃ t, t = s.appendEncoded a (.sent rs) := ⟨_, rfl⟩
  have hchunk : s.chunkFrom s.fpos.toNat = List.replicate n b := by
    refine List.eq_replicate_iff.2 ⟨by rw [State.chunkFrom_length]; omega, fun x hx => ?_⟩
    obtain ⟨j, hj, rfl⟩ := List.getElem_of_mem hx
    rw [State.chunkFrom_length] at hj
    simp only [State.chunkFrom, State.readBytes_getElem]
    exact hbytes j (by omega)
  have hrs : rs = [⟨s.codec.feor, true, n, [b]⟩] := by
    rcases hsends with ⟨hzero, -⟩ | ⟨hcut, -⟩
    · simp [hzero] at hflen
      omega
    · rw [hcmp, hchunk] at hcut
      exact greedyCut_replicate hmin hmax (by omega) hcut
  have hvalue : (values rs).length = n := by simp [hrs, SubRec.value]
  have hwires : wires rs = [subHeader s.codec.feor true n, b] := by rw [hrs]; rfl
  have hlen := sent_len ht hroom'
  have hread := sent_readBytes ht
  have htaken := sent_fpos ht hused
  rw [hwires] at hread hlen
  have hfpos : t.fpos = s.flen := BitVec.eq_of_toNat_eq (by omega)
  refine ⟨t, ht ▸ hexec, hlen, ?_, readByte_of_readBytes_eq hread (i := 1) (by simp), hfpos, ?_⟩
  · have hheader := readByte_of_readBytes_eq hread (i := 0) (by simp)
    rw [Nat.add_zero] at hheader
    rw [hheader, List.getElem_cons_zero, subHeader_toNat hmax, if_pos rfl]
    omega
  · rw [sent_codec ht hused]
    simp [hfpos, hrs]

/-! ## Round trip (R225) -/

/-- `DPOS` set to `n` and `FBUF` drained, as the host leaves them before `RLDEC`. -/
def State.rewound (s : State) (n : Nat) : State := { s with dpos := BitVec.ofNat 18 n, flen := 0 }

section
variable (s : State) (n : Nat) (a : Arena)

@[simp] theorem State.rewound_kind : (s.rewound n).kind a = s.kind a := by cases a <;> rfl
@[simp] theorem State.rewound_len : (s.rewound n).len a = s.len a := by cases a <;> rfl
@[simp] theorem State.rewound_readBytes (lo m : Nat) :
    (s.rewound n).readBytes a.space lo m = s.readBytes a.space lo m := by cases a <;> rfl

end

/-- Settles O52: the loop of `RLDEC` delivers the sub-records `RLENC` sent (`Sends.decodeBytes_wires`), which stand for
the bytes it took. -/
theorem rldecRestoresWhatRlencAppended : Obligations.RldecRestoresWhatRlencAppended := by
  intro a s t hp herr hk hpos hfpos hcap h
  obtain ⟨rs, hsends, hexec, hroom, hused⟩ := exec_rlenc_sends hk hfpos
  have ht : t = s.appendEncoded a (.sent rs) := by
    rw [hexec] at h
    exact (Host.Outcome.next.inj h).symm
  have hlen := sent_len ht hroom
  have htaken := sent_fpos ht hused
  have hpar : (t.rewound (s.len a)).par = s.par := by simp [ht, State.rewound, State.appendEncoded]
  have hdpos : (t.rewound (s.len a)).dpos.toNat = s.len a := Nat.mod_eq_of_lt (s.len_lt a)
  have hflen : (t.rewound (s.len a)).flen.toNat = 0 := rfl
  have hdecoded : (t.rewound (s.len a)).decoded a =
      .after rs (if rs.any SubRec.eor then .atEor else .atEnd) := by
    rw [State.decoded_eq, hpar, hdpos, hflen, State.rewound_readBytes, State.rewound_len, hlen,
      Nat.add_sub_cancel_left, sent_readBytes ht]
    exact hsends.decodeBytes_wires (by omega)
  obtain ⟨u, hu, huerr, ⟨hread, -, hulen, hupos, -, -⟩, -, hfeor, -, hdone⟩ :=
    exec_rldec_completes (by rw [hdpos, State.rewound_len]; omega) hdecoded (by rwa [hpar])
      (by rw [State.rewound_kind, ht, State.appendEncoded_kind, hk]) (by omega)
      (by rw [hpar, hflen]; omega) (by split <;> nofun)
  rw [hflen, Nat.zero_add] at hulen
  refine ⟨u, hu, ?_, by omega, fun j hj => ?_, by omega, ?_, ?_⟩
  · rw [huerr, ← herr]
    simp [ht, State.rewound, State.appendEncoded]
  · rw [hflen, hsends.values_eq hused, State.readBytes_length] at hread
    have hbyte := readByte_of_readBytes_eq hread (i := j) (by rw [State.readBytes_length]; omega)
    rwa [State.readBytes_getElem, Nat.zero_add] at hbyte
  · rw [hdone, hdpos, State.rewound_len, hlen, decide_eq_true_iff]
  · rw [hfeor, sent_codec ht hused]
    cases heor : rs.any SubRec.eor with
    | true =>
      obtain ⟨hsent, hall⟩ := hsends.taken_of_eor hfpos heor
      have htake : t.fpos = s.flen := BitVec.eq_of_toNat_eq (htaken.trans hall)
      simp [hsent, htake]
    | false => cases s.codec.feor <;> simp

end Sys2Proof.Machine
end

section
/-! PROOFS of the credit family (44_credit.md): what the three operations of the credit unit do, and the bound on the
takes between two loads of the window. -/

namespace Sys2Proof.Machine

/-! ## The branches of the three operations (R241 to R243) -/

/-- The state in which `CRTAKE` completes (44_credit.md R242). -/
def State.takeCredit (s : State) : State := { s with credit := s.credit - 1 }

theorem State.takeCredit_credit {s : State} (hpos : 0 < s.credit.toNat) :
    s.takeCredit.credit.toNat = s.credit.toNat - 1 :=
  BitVec.toNat_sub_of_le (x := s.credit) (y := 1) hpos

theorem exec_crinit (s : State) : exec .crinit s = .next s.loadCredit := rfl

theorem exec_crtake (s : State) :
    exec .crtake s = if 0 < s.credit.toNat then .next s.takeCredit else raise .crtake .credit 0 s := rfl

theorem exec_crgrant (s : State) :
    exec .crgrant s =
      if s.credit.toNat = 0 then .next s.loadCredit else raise .crgrant .credit s.credit.toNat s := rfl

theorem exec_crtake_of_pos {s : State} (hpos : 0 < s.credit.toNat) : exec .crtake s = .next s.takeCredit := by
  rw [exec_crtake, if_pos hpos]

theorem exec_crtake_of_zero {s : State} (hzero : s.credit.toNat = 0) :
    exec .crtake s = .next (s.raisedBy .crtake .credit 0 0) := by
  rw [exec_crtake, if_neg (by omega), raise_raisedBy]

theorem exec_crgrant_of_zero {s : State} (hzero : s.credit.toNat = 0) :
    exec .crgrant s = .next s.loadCredit := by
  rw [exec_crgrant, if_pos hzero]

theorem exec_crgrant_of_ne_zero {s : State} (hne : s.credit.toNat ≠ 0) :
    exec .crgrant s = .next (s.raisedBy .crgrant .credit s.credit.toNat 0) := by
  rw [exec_crgrant, if_neg hne, raise_raisedBy]

/-! ## A new value of `CREDIT` -/

/-- `STATUS.CZ` follows the new value of `CREDIT`, `STATUS.ERRV` and everything else are as before (10_state.md
R36). -/
theorem withCredit_frame (s : State) (credit : BitVec 32) :
    let t : State := { s with credit }
    ((t.readReg .status).getLsbD 1 = true ↔ t.readReg .credit = 0) ∧
    (t.readReg .status).getLsbD 0 = (s.readReg .status).getLsbD 0 ∧
    SameRegsBut [.credit, .status] s t ∧ SameBytes s t := by
  obtain ⟨hstatus, -⟩ := statusIsAFunctionOfErrorAndCredit
  obtain ⟨-, hcz, -⟩ := hstatus { s with credit }
  obtain ⟨herrv, -⟩ := s.status_bits
  obtain ⟨herrv', -⟩ := State.status_bits { s with credit }
  exact ⟨hcz, herrv'.trans herrv.symm, sameRegs_credit s credit, fun sp i => by cases sp <;> rfl⟩

theorem State.readReg_credit_eq_zero_iff (s : State) : s.readReg .credit = 0 ↔ s.credit.toNat = 0 := by
  have hlt := s.credit.isLt
  simp [State.readReg, ← BitVec.toNat_inj]
  omega

/-! ## The operations one by one -/

/-- Settles O55: `CRINIT` completes in `State.loadCredit` whatever the state. -/
theorem crinitLoadsTheWindow : Obligations.CrinitLoadsTheWindow :=
  ⟨by decide, fun s => ⟨_, exec_crinit s, rfl, withCredit_frame s s.credmax⟩⟩

/-- Settles O56: the test of `CRTAKE` both ways; a take from a positive `CREDIT` does not wrap. -/
theorem crtakeTakesOneCreditOrRaises : Obligations.CrtakeTakesOneCreditOrRaises := by
  refine ⟨by decide, fun s => ⟨fun hpos => ?_, exec_crtake_of_zero⟩⟩
  have htaken := State.takeCredit_credit hpos
  obtain ⟨hcz, hframe⟩ := withCredit_frame s (s.credit - 1)
  refine ⟨s.takeCredit, exec_crtake_of_pos hpos, htaken, hcz.trans ?_, hframe⟩
  change s.takeCredit.readReg .credit = 0 ↔ _
  rw [State.readReg_credit_eq_zero_iff, htaken]
  omega

/-- Settles O57: the test of `CRGRANT` both ways. -/
theorem crgrantReopensAUsedUpWindowOrRaises : Obligations.CrgrantReopensAUsedUpWindowOrRaises :=
  ⟨by decide, fun s => ⟨fun hzero => ⟨_, exec_crgrant_of_zero hzero, rfl, withCredit_frame s s.credmax⟩,
    exec_crgrant_of_ne_zero⟩⟩

/-! ## No access but a load raises `CREDIT` (R244) -/

theorem exec_credit_le {s t : State} {i : Instr} (h : exec i s = .next t) (hi : i ∉ [.crinit, .crgrant]) :
    t.credit.toNat ≤ s.credit.toNat := by
  by_cases hother : i ∈ [.crinit, .crtake, .crgrant, .sreset]
  · simp only [List.mem_cons, List.not_mem_nil, or_false, not_or] at hi hother
    obtain ⟨hinit, hgrant⟩ := hi
    rcases hother with rfl | rfl | rfl | rfl
    · exact absurd rfl hinit
    · rcases Nat.eq_zero_or_pos s.credit.toNat with hzero | hpos
      · cases (exec_crtake_of_zero hzero).symm.trans h
        exact le_refl _
      · cases (exec_crtake_of_pos hpos).symm.trans h
        rw [State.takeCredit_credit hpos]
        omega
    · exact absurd rfl hgrant
    · cases h
      exact Nat.zero_le _
  · rw [exec_credit h hother]

theorem State.writeReg_credit (s : State) (r : Reg) (v : RegWord) : (s.writeReg r v).credit = s.credit := by
  cases r <;> simp only [State.writeReg]
  case len0 | len1 => unfold State.writeLen; split <;> simp
  case debsize | fpos | flen | dpos => split <;> rfl
  case err => exact s.acknowledge_credit

theorem State.hostWriteByte_credit (s : State) (sp : Space) (i : Nat) (b : Byte) :
    (s.hostWriteByte sp i b).credit = s.credit := by
  cases sp <;> simp [State.hostWriteByte]

theorem issues_opWrite {is : List Instr} {i : Instr} (hi : i ∈ is) : issues is (opWrite (encodeOp i)) = true :=
  List.any_eq_true.2 ⟨i, hi, beq_self_eq_true _⟩

theorem serve_credit_le {s t : State} {x : HostAccess} (hx : issues [.crinit, .crgrant] x = false)
    (h : serve x s = .next t) : t.credit.toNat ≤ s.credit.toNat := by
  cases x with
  | read width offset =>
    obtain ⟨v, rfl⟩ := serve_read_spec h
    exact le_refl _
  | write width offset v =>
    rcases serve_write_spec h with ⟨rfl, rfl, hop⟩ | ⟨r, -, rfl⟩ | ⟨sp, i, -, rfl⟩
    · rcases writeOp_spec hop with ⟨-, rfl⟩ | ⟨-, -, rfl⟩ | ⟨-, i, hd, hi⟩
      · exact le_refl _
      · rw [State.recordError_credit]
      · obtain ⟨rfl, -⟩ := decode_spec hd
        refine exec_credit_le hi fun hload => ?_
        exact Bool.false_ne_true (hx.symm.trans (issues_opWrite hload))
    · rw [State.writeReg_credit]
    · rw [State.hostWriteByte_credit]
  | rst =>
    cases h
    exact Nat.zero_le _

theorem served_eq_of_serve {x : HostAccess} {s t : State} (h : serve x s = .next t) : served x s = t := by
  rw [served, h]

theorem served_credit_le {s : State} {x : HostAccess} (hx : issues [.crinit, .crgrant] x = false) :
    (served x s).credit.toNat ≤ s.credit.toNat := by
  unfold served
  split
  · exact serve_credit_le hx ‹_›
  · exact le_refl _
  · exact le_refl _

/-! ## The takes of a run (R244) -/

/-- A take that succeeds lowers `CREDIT` by 1: at 0 the operation would have recorded an error. -/
theorem served_credit_of_takesCredit {s : State} {x : HostAccess} (h : takesCredit x s = true) :
    (served x s).credit.toNat + 1 = s.credit.toNat := by
  simp only [takesCredit, issues, List.any_cons, List.any_nil, Bool.or_false, Bool.and_eq_true, beq_iff_eq,
    Bool.not_eq_true'] at h
  obtain ⟨⟨rfl, hbefore⟩, hafter⟩ := h
  have herr : s.err = none := by simpa [State.errv] using hbefore
  have hserve : serve (opWrite (encodeOp .crtake)) s = exec .crtake s :=
    (serve_writeOp s _).trans (writeOp_of_decode herr (decodeReadsBackEveryEncoding .crtake rfl))
  rcases Nat.eq_zero_or_pos s.credit.toNat with hzero | hpos
  · rw [served_eq_of_serve (hserve.trans (exec_crtake_of_zero hzero))] at hafter
    cases hafter
  · rw [served_eq_of_serve (hserve.trans (exec_crtake_of_pos hpos)), State.takeCredit_credit hpos]
    omega

/-- From any state at most `CREDIT` takes succeed while no load is issued. -/
theorem takes_le_credit {xs : List HostAccess} (hxs : ∀ x ∈ xs, issues [.crinit, .crgrant] x = false)
    (s : State) : takes xs s ≤ s.credit.toNat := by
  induction xs generalizing s with
  | nil => exact Nat.zero_le _
  | cons x xs ih =>
    obtain ⟨hx, hrest⟩ := List.forall_mem_cons.1 hxs
    have hrun := ih hrest (served x s)
    rw [takes]
    split
    · have htake := served_credit_of_takesCredit ‹_›
      omega
    · have hkeep := served_credit_le (s := s) hx
      omega

/-- A load that completes leaves `CREDIT` at `CREDMAX` (R241, R243). -/
theorem exec_load_credit {s t : State} {i : Instr} (hi : i = .crinit ∨ i = .crgrant) (h : exec i s = .next t)
    (ht : t.err = none) : t.credit = s.credmax := by
  rcases hi with rfl | rfl <;> cases exec_completes h ht <;> rfl

/-- Settles O58: the loaded `CREDIT` is `CREDMAX`, and `takes_le_credit` bounds the takes of the run by it. -/
theorem noMoreTakesSucceedThanTheLoadedWindow : Obligations.NoMoreTakesSucceedThanTheLoadedWindow := by
  intro i s t xs hi _ h ht hxs
  calc takes xs t ≤ t.credit.toNat := takes_le_credit hxs t
    _ = s.credmax.toNat := by rw [exec_load_credit hi h ht]

end Sys2Proof.Machine
end

section
/-! PROOFS of the system family (45_system.md): `NOP`, and what `SRESET` leaves beside what the reset input does. -/

namespace Sys2Proof.Machine

/-! ## The two operations (R261, R262) -/

theorem exec_nop (s : State) : exec .nop s = .next s := rfl

theorem exec_sreset (s : State) : exec .sreset s = .next s.resetRegisters := rfl

/-- `SRESET` and `rst` write the same table of register values (R262, 10_state.md R51). -/
theorem State.resetRegisters_readReg (s : State) (r : Reg) :
    s.resetRegisters.readReg r = s.hardReset.readReg r := by cases r <;> rfl

theorem State.resetRegisters_sameBytes (s : State) : SameBytes s s.resetRegisters := by
  simp [SameBytes]

/-- The lock-out: no value written to `OP` acts while an error is recorded (60_exceptions.md R278). -/
theorem writeOp_of_err {s : State} (hs : s.err ≠ none) (v : RegWord) : writeOp v s = .next s := by
  have herrv : s.errv = true := Option.isSome_iff_ne_none.2 hs
  simp [writeOp, herrv]

/-! ## The statements -/

/-- Settles O27: `NOP` answers the state it is given. -/
theorem nopChangesNothing : Obligations.NopChangesNothing :=
  ⟨by decide, exec_nop⟩

/-- Settles O28: the registers read as after `rst` (`State.resetRegisters_readReg`), for which O19 gives the values;
the bytes stay, and an error recorded locks the operation out. -/
theorem sresetRestoresRegistersAndKeepsBytes : Obligations.SresetRestoresRegistersAndKeepsBytes := by
  refine ⟨by decide, fun s hp => ⟨?_, fun herr => writeOp_of_err herr _⟩⟩
  obtain ⟨t, hrst, -, -, hid, hstatus, hkind0, hkind1, hdebsize, hdpos, hzero, -⟩ := resetLeavesTheStatedValues s hp
  obtain rfl : s.hardReset = t := by cases hrst; rfl
  simp only [← State.resetRegisters_readReg] at hid hstatus hkind0 hkind1 hdebsize hdpos hzero
  exact ⟨s.resetRegisters, exec_sreset s, s.resetRegisters_sameBytes, rfl, rfl, rfl, hid, hstatus, hkind0, hkind1,
    hdebsize, hdpos, hzero⟩

end Sys2Proof.Machine
end

section
/-! PROOFS of the exception family, the host's side (60_exceptions.md R278, R280): the lock-out, and the return from
the error state. -/

namespace Sys2Proof.Machine

/-! ## Lock-out and acknowledgement -/

theorem step_of_pending {s : State} {x : HostAccess} {rest : List HostAccess} (hs : s.pending = x :: rest) :
    step s = serve x (s.accept rest) :=
  stepServesTheOldestAccessAndRunsItsOperation.2.1 s x rest hs

/-- The write that acknowledges: register 3, at offset 0x18, is `ERR`. -/
theorem serve_writeErr (s : State) (v : RegWord) : serve (.write 64 0x18 v) s = .next s.acknowledge :=
  serve_writeReg s (r := .err) nofun v

theorem State.irq_of_no_error {s : State} (hs : s.err = none) : s.irq = false := by
  simp [State.irq, State.errv, hs]

/-- With no error recorded there is nothing to clear. -/
theorem State.Inv.acknowledge_eq {s : State} (h : s.Inv) (hs : s.err = none) : s.acknowledge = s := by
  obtain ⟨hinfo, hdump⟩ := h.clear_of_no_error hs
  rw [State.acknowledge, ← hs, ← hinfo, ← hdump]

/-- Settles O7: taking the access from the queue keeps the error recorded, and `writeOp_of_err` is the lock-out. -/
theorem operationsAreDroppedWhileAnErrorIsRecorded : Obligations.OperationsAreDroppedWhileAnErrorIsRecorded := by
  intro s v rest hs herr
  calc step s = writeOp v (s.accept rest) := by rw [step_of_pending hs, serve_writeOp]
    _ = .next (s.accept rest) := writeOp_of_err (s := s.accept rest) herr v

/-- Settles O8: the write leads to `State.acknowledge`, in which no error is recorded. -/
theorem acknowledgementClearsTheErrorAndReopensTheBlock :
    Obligations.AcknowledgementClearsTheErrorAndReopensTheBlock := by
  intro s v h
  obtain ⟨herrv, -, -⟩ := s.acknowledge.status_bits
  exact ⟨s.acknowledge, serve_writeErr s v, rfl, rfl, herrv, State.irq_of_no_error rfl,
    fun i hi => writeOp_of_decode rfl (decodeReadsBackEveryEncoding i hi), h.acknowledge_eq⟩

end Sys2Proof.Machine
end

section
/-! PROOFS of the exception family, which operation raises `E_SUBREC` (60_exceptions.md R271): `RLDEC` at a header
that announces too much, and no other. -/

namespace Sys2Proof.Machine

/-! ## The error register in the states operations complete in -/

section
variable (s : State) (a : Arena)

@[simp] theorem State.deliver_err (bs : List Byte) (stop : Nat) : (s.deliver bs stop).err = s.err := by
  simp [State.deliver]
@[simp] theorem State.deliverNumber_err (v stop : Nat) : (s.deliverNumber v stop).err = s.err := rfl
@[simp] theorem State.appendEncoded_err (e : Encoded) : (s.appendEncoded a e).err = s.err := by
  simp [State.appendEncoded]
@[simp] theorem State.appendDecoded_err (d : Decoded) : (s.appendDecoded d).err = s.err := by
  simp [State.appendDecoded]
@[simp] theorem State.setDdone_err : (s.setDdone a).err = s.err := rfl

end

/-! ## Outcomes without `E_SUBREC` -/

/-- The next state does not record `E_SUBREC`. -/
def NoSubrec (o : Host.Outcome State Fault Refusal) : Prop :=
  ∀ t r, o = .next t → t.err = some r → r.code ≠ .subrec

theorem noSubrec_next {t : State} (ht : t.err = none) : NoSubrec (.next t) := by
  rintro _ r ⟨⟩ hr
  rw [ht] at hr
  cases hr

section
variable {i : Instr} {a : Arena} {s : State}

theorem noSubrec_raise {c : ErrCode} {info : Nat} (hc : c ≠ .subrec) : NoSubrec (raise i c info s) := by
  rintro _ _ ⟨⟩ ⟨⟩
  exact hc

theorem noSubrec_raiseCheck {c : ErrCode} {info : Nat} (hc : c ≠ .subrec) :
    NoSubrec (raiseCheck i a c info s) := by
  rintro _ _ ⟨⟩ ⟨⟩
  exact hc

theorem noSubrec_ite {p : Prop} [Decidable p] {x y : Host.Outcome State Fault Refusal} (hx : NoSubrec x)
    (hy : NoSubrec y) : NoSubrec (if p then x else y) := by
  split
  · exact hx
  · exact hy

/-- The lines that look for a bad byte and raise where they find one. -/
theorem noSubrec_firstBad {b : Option Nat} {c : ErrCode} {info : Nat → Nat} {t : State} (hc : c ≠ .subrec)
    (ht : t.err = none) :
    NoSubrec (match b with
      | some j => raise i c (info j) s
      | none => .next t) := by
  cases b with
  | some j => exact noSubrec_raise hc
  | none => exact noSubrec_next ht

theorem noSubrec_inView {stop : Nat} {body : Host.Outcome State Fault Refusal} (hbody : NoSubrec body) :
    NoSubrec (inView i a stop s body) :=
  noSubrec_ite (noSubrec_raise nofun) (noSubrec_ite hbody (noSubrec_raise nofun))

theorem noSubrec_textField {off : Nat} {body : Nat → Host.Outcome State Fault Refusal}
    (hbody : ∀ n, NoSubrec (body n)) : NoSubrec (textField i a off s body) := by
  refine noSubrec_inView ?_
  dsimp only
  split
  · exact noSubrec_raise nofun
  · exact noSubrec_ite (hbody _) (noSubrec_raise nofun)

theorem noSubrec_binaryField {off : Nat} {body : Nat → Host.Outcome State Fault Refusal}
    (hbody : ∀ n, NoSubrec (body n)) : NoSubrec (binaryField i a off s body) :=
  noSubrec_inView (noSubrec_ite (hbody _) (noSubrec_raise nofun))

end

/-! ## The operations, with no error recorded before -/

section
variable {s : State} (hs : s.err = none)
include hs

theorem noSubrec_installVariable (i : Instr) (a : Arena) (off old : Nat) (pre body : List Byte) :
    NoSubrec (installVariable i a off old pre body s) :=
  noSubrec_ite (noSubrec_next (by simpa)) (noSubrec_raise nofun)

theorem execNew_noSubrec (a : Arena) (k : Kind) : NoSubrec (execNew a k s) := by
  unfold execNew
  split
  · exact noSubrec_raise nofun
  · exact noSubrec_next (by simpa)

theorem checkLayout_noSubrec (i : Instr) (a : Arena) (k : Kind) (l : Layout) :
    NoSubrec (checkLayout i a k l s) :=
  noSubrec_ite (noSubrec_ite (noSubrec_raiseCheck nofun) (noSubrec_next (by simpa)))
    (noSubrec_raiseCheck nofun)

theorem checkAny_noSubrec (i : Instr) (a : Arena) : NoSubrec (checkAny i a s) := by
  refine noSubrec_ite (noSubrec_raiseCheck nofun) ?_
  split
  · exact noSubrec_raiseCheck nofun
  · split
    · exact noSubrec_raiseCheck nofun
    · exact checkLayout_noSubrec hs _ _ _ _

theorem checkKind_noSubrec (i : Instr) (a : Arena) (k : Kind) : NoSubrec (checkKind i a k s) := by
  unfold checkKind
  split
  · exact noSubrec_raiseCheck nofun
  · exact noSubrec_ite (noSubrec_raiseCheck nofun)
      (noSubrec_ite (checkLayout_noSubrec hs _ _ _ _) (noSubrec_raiseCheck nofun))

theorem execCheck_noSubrec (a : Arena) (e : Option Kind) : NoSubrec (execCheck a e s) := by
  cases e with
  | none => exact checkAny_noSubrec hs _ a
  | some k => exact checkKind_noSubrec hs _ a k

/-- No operation but `RLDEC` raises `E_SUBREC` (R271). -/
theorem exec_noSubrec {i : Instr} (hi : ∀ a, i ≠ .rldec a) : NoSubrec (exec i s) := by
  cases i with
  | nop => exact noSubrec_next hs
  | sreset => exact noSubrec_next rfl
  | new a k => exact execNew_noSubrec hs a k
  | check a e => exact execCheck_noSubrec hs a e
  | puta a off w =>
    exact noSubrec_inView (noSubrec_ite (noSubrec_firstBad nofun (by simpa)) (noSubrec_raise nofun))
  | geta a off w => exact noSubrec_inView (noSubrec_firstBad nofun (by simpa))
  | putn a off w => exact noSubrec_inView (noSubrec_ite (noSubrec_next (by simpa)) (noSubrec_raise nofun))
  | getn a off w => exact noSubrec_inView (noSubrec_firstBad nofun (by simpa))
  | putu a off w => exact noSubrec_inView (noSubrec_ite (noSubrec_next (by simpa)) (noSubrec_raise nofun))
  | getu a off w => exact noSubrec_inView (noSubrec_next (by simpa))
  | putt a off =>
    exact noSubrec_textField fun _ =>
      noSubrec_ite (noSubrec_installVariable hs _ _ _ _ _ _) (noSubrec_raise (c := .overflow) nofun)
  | gett a off => exact noSubrec_textField fun _ => noSubrec_next (by simpa)
  | putb a off => exact noSubrec_binaryField fun _ => noSubrec_installVariable hs _ _ _ _ _ _
  | getb a off => exact noSubrec_binaryField fun _ => noSubrec_next (by simpa)
  | rlenc a =>
    exact noSubrec_ite (noSubrec_ite (noSubrec_next (by simpa)) (noSubrec_raise nofun)) (noSubrec_raise nofun)
  | rldec a => exact absurd rfl (hi a)
  | rleos => exact noSubrec_ite (noSubrec_next hs) (noSubrec_raise nofun)
  | rlinit => exact noSubrec_next hs
  | crinit => exact noSubrec_next hs
  | crtake => exact noSubrec_ite (noSubrec_next hs) (noSubrec_raise nofun)
  | crgrant => exact noSubrec_ite (noSubrec_next hs) (noSubrec_raise nofun)

/-- `RLDEC` raises `E_SUBREC` where its loop stops at a header that announces too much, with the cursor inside the
command, and in the state that loop leaves (43_rlc.md R219). -/
theorem exec_rldec_subrec {a : Arena} {t : State} {r : ErrRecord} (h : exec (.rldec a) s = .next t)
    (hr : t.err = some r) (hcode : r.code = .subrec) :
    s.dpos.toNat ≤ s.len a ∧ (s.decoded a).stop = .truncated ∧
      t = (s.appendDecoded (s.decoded a)).recordError (encode (.rldec a)) .subrec
        (s.dpos.toNat + (s.decoded a).used) 0 := by
  have other {o : Host.Outcome State Fault Refusal} (ho : NoSubrec o) : o ≠ .next t :=
    fun ht => ho t r ht hr hcode
  rw [exec_rldec, execRldec] at h
  split at h
  · split at h
    · rename_i hd
      dsimp only at h
      split at h
      · rename_i hstop
        cases h
        exact ⟨hd.2, hstop, rfl⟩
      · exact absurd h (other (noSubrec_next (by simpa)))
    · exact absurd h (other (noSubrec_raise nofun))
  · exact absurd h (other (noSubrec_raise nofun))

end

end Sys2Proof.Machine
end

section
/-! PROOFS of the exception family, precise errors (60_exceptions.md R276): the sub-records a malformed one stands
behind, and the statement. -/

namespace Sys2Proof.Machine

/-! ## The sub-record a header and its data bytes spell (30_encoding.md R127) -/

theorem headerCount_le (h : Byte) : headerCount h ≤ 63 := by
  rw [headerCount_eq]
  omega

/-- A header is its three fields. -/
theorem subHeader_fields (h : Byte) : subHeader (headerEor h) (headerRep h) (headerCount h) = h := by
  apply BitVec.eq_of_toNat_eq
  rw [subHeader_toNat (headerCount_le h), headerCount_eq, headerEor, headerRep, BitVec.getLsbD, BitVec.getLsbD,
    Nat.testBit_eq_decide_div_mod_eq, Nat.testBit_eq_decide_div_mod_eq]
  simp only [decide_eq_true_eq]
  have := h.isLt
  split <;> split <;> omega

/-- A header whose data bytes are all there begins a sub-record. -/
theorem exists_subRec {h : Byte} {rest : List Byte} (hneed : headerNeed h ≤ rest.length) :
    ∃ (r : SubRec) (more : List Byte), r.valid = true ∧ h :: rest = r.wire ++ more := by
  refine ⟨⟨headerEor h, headerRep h, headerCount h, rest.take (headerNeed h)⟩, rest.drop (headerNeed h), ?_, ?_⟩
  · rw [SubRec.valid_iff]
    exact ⟨headerCount_le h, List.length_take_of_le hneed⟩
  · rw [SubRec.wire_eq, subHeader_fields, List.cons_append, List.take_append_drop]

/-! ## What precedes a malformed header -/

/-- The loop of `RLDEC` that stops at a malformed header has delivered whole sub-records, none of which ended a
record, and they lie in front of it: the converse of `decodeBytes_wires` for that stop. -/
theorem decodeBytes_of_truncated {room : Nat} {bs : List Byte} (hstop : (decodeBytes room bs).stop = .truncated) :
    ∃ (rs : List SubRec) (rest : List Byte), (∀ r ∈ rs, r.valid = true ∧ r.eor = false) ∧
      bs = wires rs ++ rest ∧ decodeBytes room bs = .after rs .truncated := by
  induction hn : bs.length using Nat.strong_induction_on generalizing room bs with
  | _ n ih =>
    cases bs with
    | nil => cases hstop
    | cons h rest =>
      by_cases hshort : rest.length < headerNeed h
      · exact ⟨[], h :: rest, by simp, rfl, decodeBytes_truncated hshort room⟩
      · obtain ⟨r, more, hr, hwire⟩ := exists_subRec (Nat.not_lt.1 hshort)
        rw [hwire] at hstop hn ⊢
        have hsplit := decodeBytes_wire hr (room := room) more
        split at hsplit
        · rw [hsplit] at hstop
          cases hstop
        · rename_i hroom
          split at hsplit
          · rw [hsplit] at hstop
            cases hstop
          · rename_i heor
            have heor : r.eor = false := by simpa using heor
            rw [hsplit] at hstop
            rw [List.length_append, r.wire_length] at hn
            obtain ⟨rs, tail, hrs, hbytes, hafter⟩ := ih more.length (by omega) hstop rfl
            refine ⟨r :: rs, tail, List.forall_mem_cons.2 ⟨⟨hr, heor⟩, hrs⟩, ?_,
              decodeBytes_next hr more (Nat.not_lt.1 hroom) heor hafter⟩
            rw [wires_cons, List.append_assoc, ← hbytes]

/-- The same in the terms of the command: the sub-records delivered are its bytes from `DPOS` on. -/
theorem State.decoded_of_truncated {s : State} {a : Arena} (hle : s.dpos.toNat ≤ s.len a)
    (hstop : (s.decoded a).stop = .truncated) :
    ∃ rs : List SubRec, (∀ r ∈ rs, r.valid = true ∧ r.eor = false) ∧ s.decoded a = .after rs .truncated ∧
      s.readBytes a.space s.dpos.toNat (wires rs).length = wires rs := by
  obtain ⟨rs, rest, hrs, hbytes, hd⟩ := decodeBytes_of_truncated hstop
  have hused := dpos_add_wires_le hle hd
  refine ⟨rs, hrs, hd, ?_⟩
  calc s.readBytes a.space s.dpos.toNat (wires rs).length
      = (s.readBytes a.space s.dpos.toNat (s.len a - s.dpos.toNat)).take (wires rs).length :=
        (s.readBytes_take _ _ (by omega)).symm
    _ = wires rs := by rw [hbytes, List.take_left]

/-- What the loop delivers keeps `FLEN` a cursor of 18 bits, also where the host left it above the capacity: then
nothing is delivered. -/
theorem State.flen_add_values_lt {s : State} {a : Arena} {rs : List SubRec} {stop : DecodeStop}
    (hp : s.par.legal = true) (hd : s.decoded a = .after rs stop) :
    s.flen.toNat + (values rs).length < 2 ^ 18 := by
  obtain ⟨-, -, _⟩ := Params.legal_caps hp
  have hbytes := (s.decoded_le a).1
  rw [hd] at hbytes
  change (values rs).length ≤ _ at hbytes
  have := s.flen.isLt
  omega

/-- The sub-records before the stop are delivered, `FLEN` inside the capacity or not. -/
theorem State.decoded_delivered {s : State} {a : Arena} {rs : List SubRec} {stop : DecodeStop}
    (hp : s.par.legal = true) (hle : s.dpos.toNat ≤ s.len a) (hd : s.decoded a = .after rs stop) :
    Delivered rs s (s.appendDecoded (.after rs stop)) := by
  refine ⟨?_, fun q i hi => ?_, Nat.mod_eq_of_lt (State.flen_add_values_lt hp hd),
    State.appendDecoded_after_dpos (dpos_add_wires_le hle hd), rfl, rfl⟩
  · calc (s.appendDecoded (.after rs stop)).readBytes .fbuf s.flen.toNat (values rs).length
        = (s.writeBytes .fbuf s.flen.toNat (values rs)).readBytes .fbuf s.flen.toNat (values rs).length :=
          State.readBytes_congr fun j _ => s.appendDecoded_readByte ..
      _ = values rs := s.readBytes_writeBytes_same ..
  · rw [s.appendDecoded_readByte]
    exact s.readByte_writeBytes_other hi

theorem Delivered.recordError {s t : State} {rs : List SubRec} (h : Delivered rs s t) (opw : Word) (e : ErrCode)
    (info dump : Nat) : Delivered rs s (t.recordError opw e info dump) := by
  obtain ⟨hbytes, hframe, hcursors⟩ := h
  exact ⟨by rwa [State.recordError_readBytes], hframe.trans ((t.recordError_sameBytes _ _ _ _).sameBytesBut _ _ _),
    hcursors⟩

/-! ## The statement -/

/-- Every error but `E_SUBREC` is raised before anything is written (R276). -/
theorem Raised.onlyErrorChanged {s t : State} {i : Instr} {r : ErrRecord} (h : Raised s i t) (hr : t.err = some r)
    (hcode : r.code ≠ .subrec) : OnlyErrorChanged s t := by
  cases h with
  | check | plain => exact s.recordError_onlyError ..
  | subrec =>
    cases hr
    exact absurd rfl hcode

/-- Settles O23: `Raised.onlyErrorChanged` for every error but `E_SUBREC`; that one is `RLDEC`'s alone
(`exec_noSubrec`), whose loop has delivered what `State.decoded_of_truncated` finds in front of the header. -/
theorem errorsArePrecise : Obligations.ErrorsArePrecise := by
  intro i s t r hp hs h hr
  obtain ⟨hopw, -⟩ := errorsRecordTheirCodeWordAndDumpLength.2.1 i s t r hs h hr
  refine ⟨hopw, (exec_raised h hs (by simp [hr])).onlyErrorChanged hr, fun hcode => ?_⟩
  obtain ⟨a, rfl⟩ : ∃ a, i = .rldec a := by
    by_contra hi
    exact exec_noSubrec hs (not_exists.1 hi) t r h hr hcode
  obtain ⟨hle, hstop, rfl⟩ := exec_rldec_subrec hs h hr hcode
  obtain ⟨rs, hrs, hd, hbytes⟩ := State.decoded_of_truncated hle hstop
  rw [hd]
  have hdpos := State.appendDecoded_after_dpos (stop := .truncated) (dpos_add_wires_le hle hd)
  have hinfo : (BitVec.ofNat 64 (s.dpos.toNat + (wires rs).length)).toNat = s.dpos.toNat + (wires rs).length := by
    have := (s.appendDecoded (.after rs .truncated)).dpos.isLt
    exact Nat.mod_eq_of_lt (by omega)
  refine ⟨a, rs, rfl, hrs, hbytes, (State.decoded_delivered hp hle hd).recordError .., rfl, rfl, rfl,
    hinfo.trans hdpos.symm, ?_⟩
  exact ((s.appendDecoded_sameRegs _).trans (State.recordError_sameRegs ..)).mono (by simp)

end Sys2Proof.Machine
end
